-- ==== Sys2Proof/Syntax.lean ====
section
/-! DEFINITION. The instructions: the two commands of R51, one constructor per row of the opcode table. -/

namespace Sys2Proof

/-- The command set (R50, R51). The only operand is the 4-bit field `N`, the round count (R52). A command with `N`
in 6..15 is a term too: submitting it raises `ROUNDS_RANGE` (R141). -/
inductive Instr where
  /-- `H512 n`, operation code `0x1`: unkeyed Haraka-512 (R120). -/
  | h512 (n : BitVec 4)
  /-- `H512K n`, operation code `0x2`: keyed Haraka-512 (R130). -/
  | h512k (n : BitVec 4)
deriving DecidableEq, Repr

/-- The round count field `N` of a command (R52): unsigned, not scaled. -/
def Instr.rounds : Instr → BitVec 4
  | .h512 n => n
  | .h512k n => n

end Sys2Proof
end

