-- ==== Sys2Proof/Config.lean ====
section
/-! DEFINITION. The implementation parameters of R3: the settled ones as named constants, the open ones as constants
without a body. -/

namespace Sys2Proof.Config

/-- `MAX_ROUNDS` of R3: the largest round count either command accepts (decision D9 of the spec). -/
def maxRounds : Nat := 5

/-- `RC_DEPTH` of R3: the number of entries of the round-constant ROM (R92). -/
def rcDepth : Nat := 40

/-- `N_REF` of R3: the round count of the reference construction. -/
def refRounds : Nat := 5

/-- `WINDOW_BASE` of R3 and R31: where the 256-byte window stands in a system's address space.
The spec leaves it OPEN and no rule reads it; neither does any definition of this model (log entry 9). -/
opaque windowBase : Nat

/-- `LATENCY(op, n)` of R3 and R177: the finite duration of an operation, a function of the operation code and the
round count only.
The spec leaves it OPEN and no rule reads it; neither does any definition of this model (log entry 9). -/
opaque latency : BitVec 4 → BitVec 4 → Nat

end Sys2Proof.Config
end

