-- ==== Sys2Proof/WellFormed.lean ====
section
/-! DEFINITION. Well-formed commands: the ones the assembler of R57 accepts. -/

namespace Sys2Proof

/-- A command is well formed when its round count is in 0..5 (R53, R57): these are the 12 legal commands of R54. -/
def Instr.wellFormed (i : Instr) : Bool :=
  decide (i.rounds.toNat ≤ Config.maxRounds)

end Sys2Proof
end

