-- ==== Sys2Proof/Word.lean ====
section
/-! DEFINITION. The word types: byte, lane, four-lane state, and the three buffer types (R5, R70). -/

namespace Sys2Proof

/-- A byte: 8 bits, bit 7 the most significant (R5). -/
abbrev Byte := BitVec 8

/-- A lane: a vector of 16 bytes, `L[0]` first (R5, R70). -/
abbrev Lane := Vector Byte 16

/-- The 512-bit working state: the ordered tuple of lanes 0 to 3 (R5). -/
abbrev Lanes := Vector Lane 4

/-- Word `w` of a lane: four bytes (R5); the granule of the mixer. -/
abbrev LaneWord := Vector Byte 4

/-- Segment `h` of a lane: eight bytes (R5); the granule of the truncator. -/
abbrev Segment := Vector Byte 8

/-- The contents of an input buffer: 64 bytes (`STATE_BYTES` and `KEY_BYTES` of R3). -/
abbrev Block := Vector Byte 64

/-- The contents of the output buffer: 32 bytes (`DIGEST_BYTES` of R3). -/
abbrev Digest := Vector Byte 32

end Sys2Proof
end

