-- ==== Sys2Proof/Decode.lean ====
section
/-! DEFINITION. The decoder of the command byte (R50 to R54), total on all 256 bytes and rejecting by name, and the
encoder. -/

namespace Sys2Proof

/-- Why a command byte names no command. -/
inductive DecodeError where
  /-- `OP` is `0x0` or `0x3`..`0xF` (R53, R142): `Submit` raises `ILLEGAL_OP`. -/
  | illegalOp (op : BitVec 4)
deriving DecidableEq, Repr

/-- Field `OP`, bits `[7:4]` of the command byte (R50). -/
def opField (b : Byte) : BitVec 4 := b.extractLsb' 4 4

/-- Field `N`, bits `[3:0]` of the command byte (R50). -/
def nField (b : Byte) : BitVec 4 := b.extractLsb' 0 4

/-- The operation code of `H512` (R51). -/
def opH512 : BitVec 4 := 0x1

/-- The operation code of `H512K` (R51). -/
def opH512K : BitVec 4 := 0x2

/-- Decoding by operation code (R50, R51). The `N` field is carried whole: its range is checked after the operation
code, by the command itself (R143). -/
def decode (b : Byte) : Except DecodeError Instr :=
  if opField b = opH512 then .ok (.h512 (nField b))
  else if opField b = opH512K then .ok (.h512k (nField b))
  else .error (.illegalOp (opField b))

/-- The command byte of a command (R51): `OP` in bits `[7:4]`, `N` in bits `[3:0]`. -/
def encode : Instr → Byte
  | .h512 n => opH512 ++ n
  | .h512k n => opH512K ++ n

/-- The command byte in an instruction word of `nbits` bits: its first byte; bits at `nbits` and above are 0.
A command is one byte (R50, R56). -/
def commandByte (nbits w : Nat) : Byte := BitVec.ofNat 8 (w % 2 ^ nbits)

/-- The command that the decoder reads from an opcode-table word. -/
def decodeTableWord (nbits w : Nat) : Option Instr :=
  match decode (commandByte nbits w) with
  | .ok i => some i
  | .error _ => none

end Sys2Proof
end

