-- ==== Sys2Proof/Machine/State.lean ====
section
/-! DEFINITION. The state of one engine instance (R10), the ways a step can stop, and the reset state (R21, R22). -/

namespace Sys2Proof.Machine

/-- The values of the sequencer phase `PHASE` (R14). It has no architected binary code. -/
inductive Phase where
  | idle | load | keyxor | save | aes2 | mix | ffwd | trunc | faulted
deriving DecidableEq, Repr

/-- The names of the working registers, which hold no value outside an operation (R19). -/
inductive WorkReg where
  | laneS | laneT | rnd | opk | nl
deriving DecidableEq, Repr

/-- One access of the host (R4): what it can do to the block from outside. -/
inductive HostAccess where
  /-- `MemRead(addr, 1)` (R34). -/
  | read (addr : BitVec 8)
  /-- `MemWrite(addr, 1, v)` (R35). -/
  | write (addr : BitVec 8) (v : Byte)
  /-- Reset asserted and released (R170). -/
  | reset
deriving DecidableEq, Repr

/-- The model errors of R155: the only two ways a step could stop. Neither is a fault of the hardware. The hardware's
two faults, `ROUNDS_RANGE` and `ILLEGAL_OP`, are taken by a next state (`raiseFault`). -/
inductive Fault where
  /-- A read of a working register while it holds no value (R19). Raised by `withS`, `withT`, `withRnd`, `withOpk` and
  `withNl`. Safe: the model stops where the hardware has no defined value. -/
  | noValue (r : WorkReg)
  /-- A ROM read at an address 40..63 (R92). Raised by `romRead`. Safe: the model stops where the hardware has no
  entry. -/
  | romAddress (a : BitVec 6)
deriving DecidableEq, Repr

/-- Why a step has no meaning. -/
inductive Refusal where
  /-- The instruction has no meaning in this model. Raised by an arm of `exec`; no arm does. Safe: the model stops. -/
  | notModelled (mnemonic : String)
deriving DecidableEq, Repr

/-- The stored bytes of the host register window: `STATE_IN`, `KEY_IN` and `DIGEST` by window address (R31). The list
holds (address, byte) pairs in one canonical form; see `Memory.wf`. -/
abbrev Memory := List Host.Cell

/-- The complete state of one engine instance (R10) and the two ends of its host port. -/
@[ext]
structure State where
  /-- `STATE_IN` at `0x00`..`0x3F`, `KEY_IN` at `0x40`..`0x7F`, `DIGEST` at `0x80`..`0x9F` (R18, R31). -/
  mem : Memory
  /-- `CMD`, window address `0xA0` (R15). -/
  cmd : BitVec 8
  /-- `STATUS`, window address `0xA1` (R16). -/
  status : BitVec 8
  /-- `S[0..3]`, the working lanes (R11); `none` is the spec's 'no value' (R19). -/
  laneS : Option Lanes
  /-- `T[0..3]`, the feed-forward lanes (R12); `none` is the spec's 'no value' (R19). -/
  laneT : Option Lanes
  /-- `PHASE`, first part of the sequencer position (R14). -/
  phase : Phase
  /-- `RND`, second part of the sequencer position (R14): 3 bits; `none` is the spec's '-' and 'no value'. -/
  rnd : Option (BitVec 3)
  /-- `OPK`, the latched keyed flag (R14); `none` is the spec's 'no value' (R19). -/
  opk : Option Bool
  /-- `NL`, the latched round count (R14): 3 bits; `none` is the spec's 'no value' (R19). -/
  nl : Option (BitVec 3)
  /-- The MODEL's own field: the host accesses still to be performed, next one first (log entry 1). -/
  port : List HostAccess
  /-- The MODEL's own field: the bytes that reads have returned to the host, oldest first (log entry 1). -/
  replies : List Byte
deriving DecidableEq, Repr

/-- The state right after reset (R21, R22): every buffer byte reads `0x00`, `CMD` and `STATUS` are `0x00`, `PHASE` is
`IDLE`, the working registers hold no value; no access is pending and none was answered (log entry 1). -/
def State.reset : State where
  mem := []
  cmd := 0x00
  status := 0x00
  laneS := none
  laneT := none
  phase := .idle
  rnd := none
  opk := none
  nl := none
  port := []
  replies := []

end Sys2Proof.Machine
end

