-- ==== Sys2Proof/Machine/Flags.lean ====
section
/-! DEFINITION. The fields of `STATUS` (R16) and the fault causes (R140). There are no flags or condition codes (R17). -/

namespace Sys2Proof.Machine

/-- The two fault causes (R140). -/
inductive Cause where
  /-- A legal operation code with `N` in 6..15 (R141). -/
  | roundsRange
  /-- A reserved operation code (R142). -/
  | illegalOp
deriving DecidableEq, Repr

/-- The `CAUSE` code of a fault (R140). -/
def Cause.code : Cause → BitVec 4
  | .roundsRange => 0x1
  | .illegalOp => 0x2

/-- `STATUS.DONE`, bit 0 (R16). -/
def statusDone (st : BitVec 8) : Bool := st.getLsbD 0

/-- `STATUS.FAULT`, bit 1 (R16). -/
def statusFault (st : BitVec 8) : Bool := st.getLsbD 1

/-- `STATUS` bits `[3:2]`, reserved (R16). -/
def statusReserved (st : BitVec 8) : BitVec 2 := st.extractLsb' 2 2

/-- `STATUS.CAUSE`, bits `[7:4]` (R16). -/
def statusCause (st : BitVec 8) : BitVec 4 := st.extractLsb' 4 4

/-- `STATUS.DONE <- b`; the other bits stay. -/
def setDone (b : Bool) (st : BitVec 8) : BitVec 8 :=
  st.extractLsb' 1 7 ++ BitVec.ofBool b

/-- `STATUS.FAULT <- b`; the other bits stay. -/
def setFault (b : Bool) (st : BitVec 8) : BitVec 8 :=
  st.extractLsb' 2 6 ++ BitVec.ofBool b ++ st.extractLsb' 0 1

/-- `STATUS.CAUSE <- c`; the other bits stay. -/
def setCause (c : BitVec 4) (st : BitVec 8) : BitVec 8 :=
  c ++ st.extractLsb' 0 4

end Sys2Proof.Machine
end

