-- ==== Sys2Proof/Machine/Ops.lean ====
section
/-! DEFINITION. The shared operations: bytes of memory, the sequencer position, working registers, accepting a command,
ending an operation, taking a fault (R144) and reset (R170). -/

namespace Sys2Proof.Machine

/-- What a step, a meaning or a micro-operation answers. -/
abbrev Result := Host.Outcome State Fault Refusal

/-- Go on with `f` where `r` answers a next state; a stop stays. -/
def andThen (f : State → Result) (r : Result) : Result :=
  match r with
  | .next s => f s
  | .fault x => .fault x
  | .refused x => .refused x

/-! ### Memory: the stored bytes of the window -/

/-- What an address that the list does not hold reads as: the reset value `0x00` of every buffer byte (R21). -/
def Memory.unlisted : Byte := 0x00

/-- The stored byte at window address `a`. -/
def Memory.read (m : Memory) (a : Nat) : Byte :=
  match m with
  | [] => Memory.unlisted
  | (b, v) :: rest => if a = b then v else Memory.read rest a

/-- Put `v` at the front of a list whose addresses are all above `a`, unless an unlisted address reads `v`. -/
def Memory.cons (a : Nat) (v : Byte) (m : Memory) : Memory :=
  if v = Memory.unlisted then m else (a, v) :: m

/-- Store byte `v` at window address `a`; the canonical form is kept. -/
def Memory.write (m : Memory) (a : Nat) (v : Byte) : Memory :=
  match m with
  | [] => Memory.cons a v []
  | (b, w) :: rest =>
    if a < b then Memory.cons a v ((b, w) :: rest)
    else if a = b then Memory.cons a v rest
    else (b, w) :: Memory.write rest a v

/-- Store the bytes of a list at rising addresses from `a`. -/
def Memory.writeList (m : Memory) (a : Nat) : List Byte → Memory
  | [] => m
  | v :: vs => Memory.writeList (Memory.write m a v) (a + 1) vs

/-- Every address of the list is at least `lo` and below `0xA0`, addresses rise strictly, and no entry equals what an
unlisted address reads as. -/
def Memory.wfFrom (lo : Nat) : Memory → Bool
  | [] => true
  | (b, v) :: rest => decide (lo ≤ b) && decide (b < 0xA0) && decide (v ≠ Memory.unlisted) && Memory.wfFrom (b + 1) rest

/-- The canonical form of the stored bytes. `0xA0` is the first window address that is not a buffer byte (R31). -/
def Memory.wf (m : Memory) : Bool := Memory.wfFrom 0 m

/-! ### The buffers (R18, R31) -/

/-- `STATE_IN[0..63]`: byte `j` at window address `0x00 + j`. -/
def State.stateIn (s : State) : Block := Vector.ofFn fun j => s.mem.read (0x00 + j.val)

/-- `KEY_IN[0..63]`: byte `j` at window address `0x40 + j`. -/
def State.keyIn (s : State) : Block := Vector.ofFn fun j => s.mem.read (0x40 + j.val)

/-- `DIGEST[0..31]`: byte `j` at window address `0x80 + j`. -/
def State.digest (s : State) : Digest := Vector.ofFn fun j => s.mem.read (0x80 + j.val)

/-- A host write of one byte of `STATE_IN` or `KEY_IN` (R35). -/
def State.storeByte (s : State) (a : Nat) (v : Byte) : State :=
  { s with mem := s.mem.write a v }

/-- `DIGEST[0..31] <- d`, all 32 bytes at once (R110). -/
def State.storeDigest (s : State) (d : Digest) : State :=
  { s with mem := s.mem.writeList 0x80 d.toList }

/-! ### Registers -/

/-- `CMD <- v` (R35). -/
def State.setCmd (s : State) (v : Byte) : State := { s with cmd := v }

/-- `STATUS.DONE <- b` (R16). -/
def State.setDone (s : State) (b : Bool) : State := { s with status := Machine.setDone b s.status }

/-- `S[0..3] <- v` (R11). -/
def State.setS (s : State) (v : Lanes) : State := { s with laneS := some v }

/-- `T[0..3] <- v` (R12). -/
def State.setT (s : State) (v : Lanes) : State := { s with laneT := some v }

/-- `pc <- (p, r)` (R8, R14); `none` is the spec's '-'. -/
def State.setPc (s : State) (p : Phase) (r : Option (BitVec 3)) : State := { s with phase := p, rnd := r }

/-- Read `S[0..3]`; a model error while they hold no value (R19, R155). -/
def withS (s : State) (f : Lanes → Result) : Result :=
  match s.laneS with
  | some v => f v
  | none => .fault (.noValue .laneS)

/-- Read `T[0..3]`; a model error while they hold no value (R19, R155). -/
def withT (s : State) (f : Lanes → Result) : Result :=
  match s.laneT with
  | some v => f v
  | none => .fault (.noValue .laneT)

/-- Read `RND`; a model error while it holds no value (R19, R155). -/
def withRnd (s : State) (f : BitVec 3 → Result) : Result :=
  match s.rnd with
  | some v => f v
  | none => .fault (.noValue .rnd)

/-- Read `OPK`; a model error while it holds no value (R19, R155). -/
def withOpk (s : State) (f : Bool → Result) : Result :=
  match s.opk with
  | some v => f v
  | none => .fault (.noValue .opk)

/-- Read `NL`; a model error while it holds no value (R19, R155). -/
def withNl (s : State) (f : BitVec 3 → Result) : Result :=
  match s.nl with
  | some v => f v
  | none => .fault (.noValue .nl)

/-! ### Accepting a command and ending an operation -/

/-- Command accept (R120, R130): `STATUS.DONE <- 0; OPK <- keyed; NL <- n`. `NL` has 3 bits and an accepted `n` is at
most 5 (R52). -/
def State.accept (s : State) (keyed : Bool) (n : BitVec 4) : State :=
  { s with status := Machine.setDone false s.status, opk := some keyed, nl := some (n.setWidth 3) }

/-- The end of an operation (R19, R179), after TRUNC: `S`, `T`, `RND`, `OPK`, `NL` hold no value. -/
def State.endOperation (s : State) : State :=
  { s with rnd := none, laneS := none, laneT := none, opk := none, nl := none }

/-! ### Taking a fault, and reset -/

/-- Fault entry, `raise Fault(cause)` (R144): `STATUS.DONE <- 0`, `STATUS.FAULT <- 1`, `STATUS.CAUSE <- cause`,
`pc <- (FAULTED, -)`. There is no return from it (R146). -/
def State.raiseFault (s : State) (c : Cause) : State :=
  { s with
    status := setCause c.code (setFault true (Machine.setDone false s.status))
    phase := .faulted
    rnd := none }

/-- Reset asserted and released (R170): the engine is in the reset state. The two ends of the host port are the
host's, not the engine's: they stay (log entry 1). -/
def State.assertReset (s : State) : State :=
  { State.reset with port := s.port, replies := s.replies }

/-! ### The host port -/

/-- The pending accesses become `p`. -/
def State.setPort (s : State) (p : List HostAccess) : State := { s with port := p }

/-- Byte `v` is returned to the host. -/
def State.reply (s : State) (v : Byte) : State := { s with replies := s.replies ++ [v] }

end Sys2Proof.Machine
end

