-- ==== Sys2Proof/Machine/Aes.lean ====
section
/-! DEFINITION. The lane primitives and the AES round, the sub-block `aes_round_core` (R70 to R78). -/

namespace Sys2Proof.Machine

/-! ### LOAD, STORE, XOR -/

/-- A lane written as a 32-hex-digit string in byte order, `L[0]` first (R5). -/
def laneHex (n : Nat) : Lane := Vector.ofFn fun k => BitVec.ofNat 8 (n >>> (8 * (15 - k.val)))

/-- The all-zero lane. -/
def zeroLane : Lane := Vector.replicate 16 0x00

/-- LOAD of 16 bytes (R71): no reordering. -/
def loadLane (B : Vector Byte 16) : Lane := Vector.ofFn fun k => B[k]

/-- STORE to 16 bytes (R72): the inverse of LOAD. -/
def storeLane (L : Lane) : Vector Byte 16 := Vector.ofFn fun k => L[k]

/-- XOR of two lanes (R73). -/
def xorLane (A B : Lane) : Lane := Vector.ofFn fun k => A[k] ^^^ B[k]

/-! ### The four parts of the AES round -/

/-- The S-box for inputs `0x00`..`0x0F` (R74). -/
def sboxRow0 : Vector Byte 16 :=
  #v[0x63, 0x7c, 0x77, 0x7b, 0xf2, 0x6b, 0x6f, 0xc5,
    0x30, 0x01, 0x67, 0x2b, 0xfe, 0xd7, 0xab, 0x76]

/-- The S-box for inputs `0x10`..`0x1F` (R74). -/
def sboxRow1 : Vector Byte 16 :=
  #v[0xca, 0x82, 0xc9, 0x7d, 0xfa, 0x59, 0x47, 0xf0,
    0xad, 0xd4, 0xa2, 0xaf, 0x9c, 0xa4, 0x72, 0xc0]

/-- The S-box for inputs `0x20`..`0x2F` (R74). -/
def sboxRow2 : Vector Byte 16 :=
  #v[0xb7, 0xfd, 0x93, 0x26, 0x36, 0x3f, 0xf7, 0xcc,
    0x34, 0xa5, 0xe5, 0xf1, 0x71, 0xd8, 0x31, 0x15]

/-- The S-box for inputs `0x30`..`0x3F` (R74). -/
def sboxRow3 : Vector Byte 16 :=
  #v[0x04, 0xc7, 0x23, 0xc3, 0x18, 0x96, 0x05, 0x9a,
    0x07, 0x12, 0x80, 0xe2, 0xeb, 0x27, 0xb2, 0x75]

/-- The S-box for inputs `0x40`..`0x4F` (R74). -/
def sboxRow4 : Vector Byte 16 :=
  #v[0x09, 0x83, 0x2c, 0x1a, 0x1b, 0x6e, 0x5a, 0xa0,
    0x52, 0x3b, 0xd6, 0xb3, 0x29, 0xe3, 0x2f, 0x84]

/-- The S-box for inputs `0x50`..`0x5F` (R74). -/
def sboxRow5 : Vector Byte 16 :=
  #v[0x53, 0xd1, 0x00, 0xed, 0x20, 0xfc, 0xb1, 0x5b,
    0x6a, 0xcb, 0xbe, 0x39, 0x4a, 0x4c, 0x58, 0xcf]

/-- The S-box for inputs `0x60`..`0x6F` (R74). -/
def sboxRow6 : Vector Byte 16 :=
  #v[0xd0, 0xef, 0xaa, 0xfb, 0x43, 0x4d, 0x33, 0x85,
    0x45, 0xf9, 0x02, 0x7f, 0x50, 0x3c, 0x9f, 0xa8]

/-- The S-box for inputs `0x70`..`0x7F` (R74). -/
def sboxRow7 : Vector Byte 16 :=
  #v[0x51, 0xa3, 0x40, 0x8f, 0x92, 0x9d, 0x38, 0xf5,
    0xbc, 0xb6, 0xda, 0x21, 0x10, 0xff, 0xf3, 0xd2]

/-- The S-box for inputs `0x80`..`0x8F` (R74). -/
def sboxRow8 : Vector Byte 16 :=
  #v[0xcd, 0x0c, 0x13, 0xec, 0x5f, 0x97, 0x44, 0x17,
    0xc4, 0xa7, 0x7e, 0x3d, 0x64, 0x5d, 0x19, 0x73]

/-- The S-box for inputs `0x90`..`0x9F` (R74). -/
def sboxRow9 : Vector Byte 16 :=
  #v[0x60, 0x81, 0x4f, 0xdc, 0x22, 0x2a, 0x90, 0x88,
    0x46, 0xee, 0xb8, 0x14, 0xde, 0x5e, 0x0b, 0xdb]

/-- The S-box for inputs `0xA0`..`0xAF` (R74). -/
def sboxRowA : Vector Byte 16 :=
  #v[0xe0, 0x32, 0x3a, 0x0a, 0x49, 0x06, 0x24, 0x5c,
    0xc2, 0xd3, 0xac, 0x62, 0x91, 0x95, 0xe4, 0x79]

/-- The S-box for inputs `0xB0`..`0xBF` (R74). -/
def sboxRowB : Vector Byte 16 :=
  #v[0xe7, 0xc8, 0x37, 0x6d, 0x8d, 0xd5, 0x4e, 0xa9,
    0x6c, 0x56, 0xf4, 0xea, 0x65, 0x7a, 0xae, 0x08]

/-- The S-box for inputs `0xC0`..`0xCF` (R74). -/
def sboxRowC : Vector Byte 16 :=
  #v[0xba, 0x78, 0x25, 0x2e, 0x1c, 0xa6, 0xb4, 0xc6,
    0xe8, 0xdd, 0x74, 0x1f, 0x4b, 0xbd, 0x8b, 0x8a]

/-- The S-box for inputs `0xD0`..`0xDF` (R74). -/
def sboxRowD : Vector Byte 16 :=
  #v[0x70, 0x3e, 0xb5, 0x66, 0x48, 0x03, 0xf6, 0x0e,
    0x61, 0x35, 0x57, 0xb9, 0x86, 0xc1, 0x1d, 0x9e]

/-- The S-box for inputs `0xE0`..`0xEF` (R74). -/
def sboxRowE : Vector Byte 16 :=
  #v[0xe1, 0xf8, 0x98, 0x11, 0x69, 0xd9, 0x8e, 0x94,
    0x9b, 0x1e, 0x87, 0xe9, 0xce, 0x55, 0x28, 0xdf]

/-- The S-box for inputs `0xF0`..`0xFF` (R74). -/
def sboxRowF : Vector Byte 16 :=
  #v[0x8c, 0xa1, 0x89, 0x0d, 0xbf, 0xe6, 0x42, 0x68,
    0x41, 0x99, 0x2d, 0x0f, 0xb0, 0x54, 0xbb, 0x16]

/-- The S-box table of R74: the row is the high hex digit of the input, the column the low one. -/
def sboxRows : Vector (Vector Byte 16) 16 :=
  #v[sboxRow0, sboxRow1, sboxRow2, sboxRow3, sboxRow4, sboxRow5, sboxRow6, sboxRow7,
    sboxRow8, sboxRow9, sboxRowA, sboxRowB, sboxRowC, sboxRowD, sboxRowE, sboxRowF]

/-- `SBOX[b]` (R74). -/
def sbox (b : Byte) : Byte :=
  (sboxRows[(b.extractLsb' 4 4).toNat]'(b.extractLsb' 4 4).isLt)[(b.extractLsb' 0 4).toNat]'(b.extractLsb' 0 4).isLt

/-- SubBytes (R74). -/
def subBytes (L : Lane) : Lane := Vector.ofFn fun k => sbox L[k]

/-- ShiftRows (R75): `M[k] <- L[(5*k) mod 16]`. -/
def shiftRows (L : Lane) : Lane := Vector.ofFn fun k => L[(5 * k.val) % 16]

/-- `xtime(b)`, multiplication by 2 in the field of R76. -/
def xtime (b : Byte) : Byte := (b <<< 1) ^^^ (if b.getLsbD 7 then 0x1b else 0x00)

/-- `mul2` of R76. -/
def mul2 (b : Byte) : Byte := xtime b

/-- `mul3` of R76. -/
def mul3 (b : Byte) : Byte := xtime b ^^^ b

/-- One column of MixColumns (R76). -/
def mixColumn (a0 a1 a2 a3 : Byte) : LaneWord :=
  #v[mul2 a0 ^^^ mul3 a1 ^^^ a2 ^^^ a3,
    a0 ^^^ mul2 a1 ^^^ mul3 a2 ^^^ a3,
    a0 ^^^ a1 ^^^ mul2 a2 ^^^ mul3 a3,
    mul3 a0 ^^^ a1 ^^^ a2 ^^^ mul2 a3]

/-- MixColumns (R76): column `c` is bytes `4c..4c+3`. -/
def mixColumns (L : Lane) : Lane :=
  Vector.ofFn fun k =>
    (mixColumn L[4 * (k.val / 4)] L[4 * (k.val / 4) + 1] L[4 * (k.val / 4) + 2] L[4 * (k.val / 4) + 3])[k.val % 4]

/-- AddRoundKey (R77). -/
def addRoundKey (L RK : Lane) : Lane := xorLane L RK

/-- AESRND, one full AES encryption round (R78). -/
def aesRnd (L RK : Lane) : Lane := addRoundKey (mixColumns (shiftRows (subBytes L))) RK

/-! ### The S-box by its definition -/

/-- Multiplication in GF(2^8) modulo `x^8 + x^4 + x^3 + x + 1`, over the low `fuel` bits of `b` (R74, R76). -/
def gfMulBits (a b : Byte) : Nat → Byte
  | 0 => 0x00
  | fuel + 1 => (if b.getLsbD 0 then a else 0x00) ^^^ gfMulBits (xtime a) (b >>> 1) fuel

/-- Multiplication in GF(2^8) (R74). -/
def gfMul (a b : Byte) : Byte := gfMulBits a b 8

/-- The affine map `A(y)` of R74. -/
def sboxAffine (y : Byte) : Byte :=
  y ^^^ y.rotateLeft 1 ^^^ y.rotateLeft 2 ^^^ y.rotateLeft 3 ^^^ y.rotateLeft 4 ^^^ 0x63

end Sys2Proof.Machine
end

