-- ==== Sys2Proof/Machine/Operands.lean ====
section
/-! DEFINITION. The operand forms: the lanes of a 64-byte buffer (R60, R71), the words and segments of a lane (R5), and
exclusive-or of whole states and buffers (R7). There are no register or address operands (R52). -/

namespace Sys2Proof.Machine

/-- Bytes `16*i` to `16*i+15` of a buffer (R32). -/
def laneBytes (B : Block) (i : Fin 4) : Vector Byte 16 := Vector.ofFn fun k => B[16 * i.val + k.val]

/-- A 64-byte buffer loaded into four lanes (R71): `S[i][k] = B[16*i + k]`. -/
def loadLanes (B : Block) : Lanes := Vector.ofFn fun i => loadLane (laneBytes B i)

/-- State byte `j` of four lanes (R5): `S[j div 16][j mod 16]`. -/
def stateByte (S : Lanes) (j : Fin 64) : Byte := S[j.val / 16][j.val % 16]

/-- Word `w` of a lane (R5): bytes `4w..4w+3`. -/
def laneWord (L : Lane) (w : Fin 4) : LaneWord := Vector.ofFn fun b => L[4 * w.val + b.val]

/-- `w0 ++ w1 ++ w2 ++ w3`, the left operand in the lower-numbered word (R102). -/
def ofWords (w0 w1 w2 w3 : LaneWord) : Lane := Vector.ofFn fun k => #v[w0, w1, w2, w3][k.val / 4][k.val % 4]

/-- Segment `h` of a lane (R5): bytes `8h..8h+7`. -/
def segment (L : Lane) (h : Fin 2) : Segment := Vector.ofFn fun b => L[8 * h.val + b.val]

/-- `g0 ++ g1 ++ g2 ++ g3` as the 32 bytes of a digest (R110, R123). -/
def ofSegments (g0 g1 g2 g3 : Segment) : Digest := Vector.ofFn fun t => #v[g0, g1, g2, g3][t.val / 8][t.val % 8]

/-- Exclusive-or lane by lane (R122, R131). -/
def xorLanes (A B : Lanes) : Lanes := Vector.ofFn fun i => xorLane A[i] B[i]

/-- Exclusive-or of two buffers, byte by byte (R7, R133). -/
def xorBlock (A B : Block) : Block := Vector.ofFn fun j => A[j] ^^^ B[j]

end Sys2Proof.Machine
end

