-- ==== Sys2Proof/Machine/Rom.lean ====
section
/-! DEFINITION. The round-constant ROM, the sub-block `round_constant_rom` (R59, R90 to R94). It is no state: it is a
constant of the hardware (R10). -/

namespace Sys2Proof.Machine

/-- `ROM[0]` to `ROM[7]`, in lane byte order (R90). -/
def romRound0 : List Lane :=
  [laneHex 0x9d7b8175f0fec5b20ac020e64c708406,
    laneHex 0x447039be1ccdee798b447248cbb0cfcb,
    laneHex 0x17f7082fa46b0f646ba0f388e1b4668b,
    laneHex 0x7b058a2bed35538db732906eeecdea7e,
    laneHex 0x1491029f609d02cf9884f2532dde0234,
    laneHex 0x1bef4fda612741e2d07c2e5e438fc267,
    laneHex 0x794f5bfdafbcf3bb084f7b2ee6ead60e,
    laneHex 0x3b0bc71fe2fd5f6707cccaafb0d92429]

/-- `ROM[8]` to `ROM[15]`, in lane byte order (R90). -/
def romRound1 : List Lane :=
  [laneHex 0xee65d4b9ca8fdbece97f86e6f1634dab,
    laneHex 0xd49f12292e4ffa0e122a776b2b9fb4df,
    laneHex 0x337e03ad4f402a5b64cdb7d484bf301c,
    laneHex 0xee126abbae11d63236a249f44403a11e,
    laneHex 0x0098f68d2e8b0269bf231794b90bccb2,
    laneHex 0xa6eca89cc900965f8400054b884904af,
    laneHex 0x8a2d9d5cc89eaa4a72556fdea67804fa,
    laneHex 0xec93e527e3c7a2784f9c199dd85e0221]

/-- `ROM[16]` to `ROM[23]`, in lane byte order (R90). -/
def romRound2 : List Lane :=
  [laneHex 0x7301d482cd2e28b9b7c959a7f8aa3abf,
    laneHex 0xb47110e558b9ba6ceb8658223892bfd3,
    laneHex 0x6b7d3010d9eff23717b086610d706062,
    laneHex 0x8d12e124ddfd3d9377c6f0aee53c86db,
    laneHex 0xc69afcf65391c28143043021c245ca5a,
    laneHex 0xb11222cbe38de4839ca0ebff686260bb,
    laneHex 0x3a94d136e892af2cbb686b223c972392,
    laneHex 0x7df72bc74e1ab92d9cd1e4e2dcd34b73]

/-- `ROM[24]` to `ROM[31]`, in lane byte order (R90). -/
def romRound3 : List Lane :=
  [laneHex 0x4e92b32cc415144b431b3061c347bb43,
    laneHex 0x5dee46a99d066c9daae9a86bf0436bec,
    laneHex 0x9968eb16dd31b203f6ef07e7a875a7db,
    laneHex 0xc127f33b591153a22b3357f950691ecb,
    laneHex 0x2c47ca7e02235e8e7759753c4b61f36d,
    laneHex 0xd9d00e605303ede49c61da00750cee2c,
    laneHex 0xf91786b8b9e51b6d777dded6175aa7cd,
    laneHex 0x50a3a463bcbabb80ab0ce996a1a5b1f0]

/-- `ROM[32]` to `ROM[39]`, in lane byte order (R90). -/
def romRound4 : List Lane :=
  [laneHex 0x39ca8d9330de0dab8829965e02b13dae,
    laneHex 0x78c99e83f79ccaa26a02f3b9549ae94c,
    laneHex 0x42b4752ea8f314880ba454d5388fbb17,
    laneHex 0x35129022286ec040bef7df1b1aa551ae,
    laneHex 0xf6160a3679b7b6aed77f425f5b8abb34,
    laneHex 0xcf59a6480fbc73c12bd27eba3c61c1a0,
    laneHex 0xdeafbaff1859ce433854e5cb4152f626,
    laneHex 0xa19dc5e9fdbdd64a8882280203cc6a75]

/-- The table of R90 in address order. -/
def rom : List Lane := romRound0 ++ romRound1 ++ romRound2 ++ romRound3 ++ romRound4

/-- The ROM address `{r, i, j}` (R59): bits `[5:3]` the round, `[2:1]` the lane, `[0]` which AES round of the lane. -/
def romAddr (r : BitVec 3) (i : BitVec 2) (j : BitVec 1) : BitVec 6 := r ++ i ++ j

/-- A ROM read (R44, R94); an address 40..63 is a model error (R92, R155). -/
def romRead (a : BitVec 6) : Except Fault Lane :=
  match rom[a.toNat]? with
  | some k => .ok k
  | none => .error (.romAddress a)

/-! ### The published list -/

/-- `bytes_of` of R93: the lane bytes of a 128-bit numeral, byte 0 the least significant. -/
def bytesOf (c : BitVec 128) : Lane := Vector.ofFn fun k => c.extractLsb' (8 * k.val) 8

/-- `RC_0` to `RC_19` as numerals (R93). -/
def publishedLow : List (BitVec 128) :=
  [0x0684704ce620c00ab2c5fef075817b9d,
    0x8b66b4e188f3a06b640f6ba42f08f717,
    0x3402de2d53f28498cf029d609f029114,
    0x0ed6eae62e7b4f08bbf3bcaffd5b4f79,
    0xcbcfb0cb4872448b79eecd1cbe397044,
    0x7eeacdee6e9032b78d5335ed2b8a057b,
    0x67c28f435e2e7cd0e2412761da4fef1b,
    0x2924d9b0afcacc07675ffde21fc70b3b,
    0xab4d63f1e6867fe9ecdb8fcab9d465ee,
    0x1c30bf84d4b7cd645b2a404fad037e33,
    0xb2cc0bb9941723bf69028b2e8df69800,
    0xfa0478a6de6f55724aaa9ec85c9d2d8a,
    0xdfb49f2b6b772a120efa4f2e29129fd4,
    0x1ea10344f449a23632d611aebb6a12ee,
    0xaf0449884b0500845f9600c99ca8eca6,
    0x21025ed89d199c4f78a2c7e327e593ec,
    0xbf3aaaf8a759c9b7b9282ecd82d40173,
    0x6260700d6186b01737f2efd910307d6b,
    0x5aca45c22130044381c29153f6fc9ac6,
    0x9223973c226b68bb2caf92e836d1943a]

/-- `RC_20` to `RC_39` as numerals (R93). -/
def publishedHigh : List (BitVec 128) :=
  [0xd3bf9238225886eb6cbab958e51071b4,
    0xdb863ce5aef0c677933dfddd24e1128d,
    0xbb606268ffeba09c83e48de3cb2212b1,
    0x734bd3dce2e4d19c2db91a4ec72bf77d,
    0x43bb47c361301b434b1415c42cb3924e,
    0xdba775a8e707eff603b231dd16eb6899,
    0x6df3614b3c7559778e5e23027eca472c,
    0xcda75a17d6de7d776d1be5b9b88617f9,
    0xec6b43f06ba8e9aa9d6c069da946ee5d,
    0xcb1e6950f957332ba25311593bf327c1,
    0x2cee0c7500da619ce4ed0353600ed0d9,
    0xf0b1a5a196e90cab80bbbabc63a4a350,
    0xae3db1025e962988ab0dde30938dca39,
    0x17bb8f38d554a40b8814f3a82e75b442,
    0x34bb8a5b5f427fd7aeb6b779360a16f6,
    0x26f65241cbe5543843ce5918ffbaafde,
    0x4ce99a54b9f3026aa2ca9cf7839ec978,
    0xae51a51a1bdff7be40c06e2822901235,
    0xa0c1613cba7ed22bc173bc0f48a659cf,
    0x756acc03022882884ad6bdfde9c59da1]

/-- The Haraka v2 round constants in publication order, `RC_0` to `RC_39` (R93). -/
def published : List (BitVec 128) := publishedLow ++ publishedHigh

end Sys2Proof.Machine
end

