-- ==== Sys2Proof/Machine/RoundFunction.lean ====
section
/-! DEFINITION. The round function: the AES step (R101) and the mix, the sub-block `cross_lane_mixer` (R102). -/

namespace Sys2Proof.Machine

/-- The two AES rounds of lane `i` in Haraka round `r` (R101): keys `ROM[8*r + 2*i]`, then `ROM[8*r + 2*i + 1]`. -/
def aes2Lane (r : BitVec 3) (i : BitVec 2) (L : Lane) : Except Fault Lane := do
  let k0 ← romRead (romAddr r i 0)
  let k1 ← romRead (romAddr r i 1)
  pure (aesRnd (aesRnd L k0) k1)

/-- The AES step on all four lanes (R101). The order over the lanes cannot be observed (R79). -/
def aes2Lanes (r : BitVec 3) (S : Lanes) : Except Fault Lanes := do
  let s0 ← aes2Lane r 0 S[0]
  let s1 ← aes2Lane r 1 S[1]
  let s2 ← aes2Lane r 2 S[2]
  let s3 ← aes2Lane r 3 S[3]
  pure #v[s0, s1, s2, s3]

/-- The mix on four lanes (R102); all four outputs are computed from the old values. -/
def mixLanes (S : Lanes) : Lanes :=
  let A := S[0]
  let B := S[1]
  let C := S[2]
  let D := S[3]
  #v[ofWords (laneWord A 3) (laneWord C 3) (laneWord B 3) (laneWord D 3),
    ofWords (laneWord C 0) (laneWord A 0) (laneWord D 0) (laneWord B 0),
    ofWords (laneWord C 1) (laneWord A 1) (laneWord D 1) (laneWord B 1),
    ofWords (laneWord A 2) (laneWord C 2) (laneWord B 2) (laneWord D 2)]

/-- Micro-operation `AES2(r)` with `r` = `RND` (R101). -/
def aes2 (s : State) : Result :=
  withRnd s fun r => withS s fun S =>
    match aes2Lanes r S with
    | .ok S' => .next (s.setS S')
    | .error x => .fault x

/-- Micro-operation `MIX` (R102). -/
def mix (s : State) : Result :=
  withS s fun S => .next (s.setS (mixLanes S))

end Sys2Proof.Machine
end

