-- ==== Sys2Proof/Machine/Truncation.lean ====
section
/-! DEFINITION. Truncation, the sub-block `state_truncator` (R110). -/

namespace Sys2Proof.Machine

/-- The 32 selected bytes of four lanes (R110): the upper segments of lanes 0 and 1, the lower segments of lanes 2
and 3. -/
def truncate (S : Lanes) : Digest :=
  ofSegments (segment S[0] 1) (segment S[1] 1) (segment S[2] 0) (segment S[3] 0)

/-- Micro-operation TRUNC (R110): `DIGEST` written whole, `STATUS.DONE <- 1`, `pc <- (IDLE, -)`. -/
def trunc (s : State) : Result :=
  withS s fun S => .next (((s.storeDigest (truncate S)).setDone true).setPc .idle none)

end Sys2Proof.Machine
end

