-- ==== Sys2Proof/Machine/MicroOps.lean ====
section
/-! DEFINITION. The micro-operations LOAD, KEYXOR, SAVE and FFWD, and the counted loop of rounds. -/

namespace Sys2Proof.Machine

/-- Micro-operation LOAD (R71): `S[i] <- LOAD(STATE_IN[16i .. 16i+15])`. -/
def load (s : State) : Result := .next (s.setS (loadLanes s.stateIn))

/-- Micro-operation KEYXOR (R131): `S[i] <- XOR(S[i], LOAD(KEY_IN[16i .. 16i+15]))`. -/
def keyXor (s : State) : Result :=
  withS s fun S => .next (s.setS (xorLanes S (loadLanes s.keyIn)))

/-- Micro-operation SAVE (R121): `T[i] <- S[i]`. -/
def save (s : State) : Result :=
  withS s fun S => .next (s.setT S)

/-- Micro-operation FFWD (R122): `S[i] <- XOR(S[i], T[i])`. -/
def ffwd (s : State) : Result :=
  withS s fun S => withT s fun T => .next (s.setS (xorLanes S T))

/-- AESMIX, one Haraka round (R100), as the sequencer runs it (R14): `AES2(r)` with `RND` = `r`, then `MIX`. -/
def aesMix (r : Nat) (s : State) : Result :=
  aes2 (s.setPc .aes2 (some (BitVec.ofNat 3 r)))
    |> andThen fun s => mix (s.setPc .mix s.rnd)

/-- Rounds `0` to `n-1` in increasing order (R105); none when `n` = 0. -/
def roundLoop : Nat → State → Result
  | 0, s => .next s
  | n + 1, s => roundLoop n s |> andThen (aesMix n)

/-- The counted loop of an operation: its trip count is the latched `NL` (R14, R124). -/
def rounds (s : State) : Result := withNl s fun n => roundLoop n.toNat s

end Sys2Proof.Machine
end

