-- ==== Sys2Proof/Machine/H512.lean ====
section
/-! DEFINITION. Command `H512` (R120): the unkeyed operation. -/

namespace Sys2Proof.Machine

/-- `H512 n` (R120): the micro-operations in order. `N` in 6..15 raises `ROUNDS_RANGE` before anything is read
(R50, R141). -/
def execH512 (n : BitVec 4) (s : State) : Result :=
  if n.toNat ≤ Config.maxRounds then
    load ((s.accept false n).setPc .load none)
      |> andThen (fun s => save (s.setPc .save none))
      |> andThen rounds
      |> andThen (fun s => ffwd (s.setPc .ffwd none))
      |> andThen (fun s => trunc (s.setPc .trunc none))
      |> andThen (fun s => .next s.endOperation)
  else .next (s.raiseFault .roundsRange)

end Sys2Proof.Machine
end

