-- ==== Sys2Proof/Machine/H512K.lean ====
section
/-! DEFINITION. Command `H512K` (R130): the keyed operation. -/

namespace Sys2Proof.Machine

/-- `H512K n` (R130): the micro-operations in order; SAVE runs after KEYXOR (R132). `N` in 6..15 raises `ROUNDS_RANGE`
before anything is read (R50, R136, R141). -/
def execH512K (n : BitVec 4) (s : State) : Result :=
  if n.toNat ≤ Config.maxRounds then
    load ((s.accept true n).setPc .load none)
      |> andThen (fun s => keyXor (s.setPc .keyxor none))
      |> andThen (fun s => save (s.setPc .save none))
      |> andThen rounds
      |> andThen (fun s => ffwd (s.setPc .ffwd none))
      |> andThen (fun s => trunc (s.setPc .trunc none))
      |> andThen (fun s => .next s.endOperation)
  else .next (s.raiseFault .roundsRange)

end Sys2Proof.Machine
end

