-- ==== Sys2Proof/Machine/Dispatch.lean ====
section
/-! DEFINITION. The meaning of each command: one arm per constructor of `Instr`. -/

namespace Sys2Proof.Machine

def exec (i : Instr) (s : State) : Host.Outcome State Fault Refusal :=
  match i with
  | .h512 n => Sys2Proof.Machine.execH512 n s
  | .h512k n => Sys2Proof.Machine.execH512K n s

end Sys2Proof.Machine
end

