-- ==== Sys2Proof/Machine/HostPort.lean ====
section
/-! DEFINITION. The host port: the read and the write of one byte of the window (R34, R35), the submission of a command
(R50), and one step of the machine, which is one host access (R4, R36, R38). -/

namespace Sys2Proof.Machine

/-- `MemRead(addr, 1)` (R34). -/
def memRead (s : State) (addr : BitVec 8) : Byte :=
  if addr.toNat ≤ 0x9F then s.mem.read addr.toNat
  else if addr = 0xA0 then s.cmd
  else if addr = 0xA1 then s.status
  else 0x00

/-- `Submit(b)` (R50): a reserved operation code raises `ILLEGAL_OP`; every other byte runs its command, which checks
the round count (R143). -/
def submit (b : Byte) (s : State) : Result :=
  match decode b with
  | .error (.illegalOp _) => .next (s.raiseFault .illegalOp)
  | .ok i => exec i s

/-- `MemWrite(addr, 1, v)` (R35). -/
def memWrite (s : State) (addr : BitVec 8) (v : Byte) : Result :=
  if addr.toNat ≤ 0x7F then .next (s.storeByte addr.toNat v)
  else if addr = 0xA0 then
    if statusFault s.status then .next s
    else submit v (s.setCmd v)
  else .next s

/-- One host access (R4): a read returns its byte and changes nothing else; reset is the reset input. -/
def hostAccess (a : HostAccess) (s : State) : Result :=
  match a with
  | .read addr => .next (s.reply (memRead s addr))
  | .write addr v => memWrite s addr v
  | .reset => .next s.assertReset

/-- One step: the next pending host access, whole (R36, R38). With none pending the engine holds its state (R154). -/
def hostStep (s : State) : Result :=
  match s.port with
  | [] => .next s
  | a :: rest => hostAccess a (s.setPort rest)

end Sys2Proof.Machine
end

