-- ==== Sys2Proof/Machine/Step.lean ====
section
/-! DEFINITION. The step function and the placing of one command where the step takes its next one. -/

namespace Sys2Proof.Machine

/-- One step of the machine: one host access (R4, R36). -/
def step (s : State) : Host.Outcome State Fault Refusal := hostStep s

/-- `s` with the write of the command byte of `w` to `CMD` (window address `0xA0`) as the next access of the host: a
command is taken from the data of that write (R41, R50). In a faulted engine the write is ignored (R146). -/
def State.withFetchWord (s : State) (nbits w : Nat) : State :=
  s.setPort (.write 0xA0 (commandByte nbits w) :: s.port)

end Sys2Proof.Machine
end

