-- ==== Sys2Proof/Machine/Script.lean ====
section
/-! DEFINITION. The host script notation (R57) and the pseudo-instructions (R58), as the host accesses they expand to. A
trailing `-> v` only states an expected value, so it has no form here. -/

namespace Sys2Proof.Machine

/-- A statement of a host script (R57, R58). -/
inductive Stmt where
  | wr (addr : BitVec 8) (v : Byte)
  | rd (addr : BitVec 8)
  | reset
  | h512 (n : Nat)
  | h512k (n : Nat)
  | ldstate (h : Block)
  | ldkey (h : Block)
  | rddigest
  | rdstatus
  | haraka512 (n : Nat) (h : Block)
  | haraka512k (n : Nat) (h k : Block)
deriving DecidableEq, Repr

/-- Writes of a list of bytes to rising window addresses from `a`. -/
def writesFrom (a : Nat) : List Byte → List HostAccess
  | [] => []
  | v :: vs => .write (BitVec.ofNat 8 a) v :: writesFrom (a + 1) vs

/-- Reads of `n` rising window addresses from `a`. -/
def readsFrom (a : Nat) : Nat → List HostAccess
  | 0 => []
  | n + 1 => .read (BitVec.ofNat 8 a) :: readsFrom (a + 1) n

/-- `LDSTATE h`: `WR 0x00+j, h_j` for `j` = 0..63 (R58). -/
def ldstateAccesses (h : Block) : List HostAccess := writesFrom 0x00 h.toList

/-- `LDKEY h`: `WR 0x40+j, h_j` for `j` = 0..63 (R58). -/
def ldkeyAccesses (h : Block) : List HostAccess := writesFrom 0x40 h.toList

/-- `RDDIGEST`: `RD 0x80+j` for `j` = 0..31 (R58). -/
def rddigestAccesses : List HostAccess := readsFrom 0x80 32

/-- `RDSTATUS`: `RD 0xA1` (R58). -/
def rdstatusAccesses : List HostAccess := [.read 0xA1]

/-- `WR 0xA0, base + n` for `n` in 0..5; the assembler rejects every other `n` (R57). -/
def command (base : Byte) (n : Nat) : Option (List HostAccess) :=
  if n ≤ Config.maxRounds then some [.write 0xA0 (base + BitVec.ofNat 8 n)] else none

/-- The host accesses of a statement, `none` where the assembler rejects it (R57, R58). -/
def Stmt.expand : Stmt → Option (List HostAccess)
  | .wr addr v => some [.write addr v]
  | .rd addr => some [.read addr]
  | .reset => some [.reset]
  | .h512 n => command 0x10 n
  | .h512k n => command 0x20 n
  | .ldstate h => some (ldstateAccesses h)
  | .ldkey h => some (ldkeyAccesses h)
  | .rddigest => some rddigestAccesses
  | .rdstatus => some rdstatusAccesses
  | .haraka512 n h => (command 0x10 n).map fun c => ldstateAccesses h ++ c ++ rdstatusAccesses ++ rddigestAccesses
  | .haraka512k n h k => (command 0x20 n).map fun c => ldstateAccesses h ++ ldkeyAccesses k ++ c ++ rdstatusAccesses ++ rddigestAccesses

/-- The host accesses of a script, in order; `none` where a statement is rejected. -/
def assemble : List Stmt → Option (List HostAccess)
  | [] => some []
  | t :: ts =>
    match t.expand, assemble ts with
    | some a, some rest => some (a ++ rest)
    | _, _ => none

end Sys2Proof.Machine
end

