-- ==== Sys2Proof/Machine/Sequencer.lean ====
section
/-! DEFINITION. Level M (R4, R14): the sequencer as a machine of its own, one micro-operation a step, steered by `OPK`
and `NL` alone. -/

namespace Sys2Proof.Machine

/-- The position after SAVE (`r` = 0) and after the MIX of round `r-1`: the next round, or FFWD when `NL` rounds are done
(R14). -/
def nextRound (r : Nat) (s : State) : Result :=
  withNl s fun n =>
    if r < n.toNat then .next (s.setPc .aes2 (some (BitVec.ofNat 3 r)))
    else .next (s.setPc .ffwd none)

/-- The position after LOAD (R14). -/
def afterLoad (s : State) : Result :=
  withOpk s fun keyed => .next (s.setPc (if keyed then .keyxor else .save) none)

/-- One micro-step (R14): the micro-operation at the sequencer's position, then the next position. In `IDLE` and
`FAULTED` the sequencer rests. -/
def microStep (s : State) : Result :=
  match s.phase with
  | .idle => .next s
  | .load => load s |> andThen afterLoad
  | .keyxor => keyXor s |> andThen fun s => .next (s.setPc .save none)
  | .save => save s |> andThen (nextRound 0)
  | .aes2 => aes2 s |> andThen fun s => .next (s.setPc .mix s.rnd)
  | .mix => mix s |> andThen fun s => withRnd s fun r => nextRound (r.toNat + 1) s
  | .ffwd => ffwd s |> andThen fun s => .next (s.setPc .trunc none)
  | .trunc => trunc s |> andThen fun s => .next s.endOperation
  | .faulted => .next s

/-- `k` micro-steps. -/
def microRun : Nat → State → Result
  | 0, s => .next s
  | k + 1, s => microStep s |> andThen (microRun k)

/-- The state in which the sequencer starts on an accepted command (R14, R120, R130). -/
def State.start (s : State) (keyed : Bool) (n : BitVec 4) : State := (s.accept keyed n).setPc .load none

/-- The number of micro-operations of an operation (R14): LOAD, KEYXOR if keyed, SAVE, two per round, FFWD, TRUNC. -/
def microCount (keyed : Bool) (n : Nat) : Nat := 4 + (if keyed then 1 else 0) + 2 * n

/-- The positions that the sequencer takes, in order, from the start of an operation to its return to `IDLE` (R14). -/
def positions (keyed : Bool) (n : Nat) : List (Phase × Option (BitVec 3)) :=
  (.load, none) :: (if keyed then [(.keyxor, none)] else []) ++ [(.save, none)]
    ++ (List.range n).flatMap (fun r => [(.aes2, some (BitVec.ofNat 3 r)), (.mix, some (BitVec.ofNat 3 r))])
    ++ [(.ffwd, none), (.trunc, none), (.idle, none)]

end Sys2Proof.Machine
end

