-- ==== Sys2Proof/Machine/Haraka.lean ====
section
/-! DEFINITION. Level T (R4): the two operations as pure functions of buffers (R123, R133), written from their own rules
and not from the micro-operations. -/

namespace Sys2Proof.Machine

theorem rom_length : rom.length = Config.rcDepth := rfl

/-- `AES2f` (R101, R123): the AES step of round `r` as a function of lanes, the ROM read at index `8*r + 2*i + j`
(R91). -/
def aes2f (P : Lanes) (r : Fin 5) : Lanes :=
  Vector.ofFn fun i =>
    aesRnd
      (aesRnd P[i] (rom[8 * r.val + 2 * i.val]'(by have := r.isLt; have := i.isLt; rw [rom_length, Config.rcDepth]; omega)))
      (rom[8 * r.val + 2 * i.val + 1]'(by have := r.isLt; have := i.isLt; rw [rom_length, Config.rcDepth]; omega))

/-- `P_n` of R123, from `P_0`: `P_{r+1} = MIXf(AES2f(P_r, r))`. -/
def roundsf : (n : Nat) → n ≤ Config.maxRounds → Lanes → Lanes
  | 0, _, P => P
  | r + 1, h, P => mixLanes (aes2f (roundsf r (Nat.le_of_succ_le h) P) ⟨r, h⟩)

/-- `Haraka512(X, n)` (R123). -/
def haraka512 (X : Block) (n : Nat) (h : n ≤ Config.maxRounds) : Digest :=
  truncate (xorLanes (roundsf n h (loadLanes X)) (loadLanes X))

/-- `Haraka512K(X, K, n)` (R133). -/
def haraka512K (X K : Block) (n : Nat) (h : n ≤ Config.maxRounds) : Digest := haraka512 (xorBlock X K) n h

end Sys2Proof.Machine
end

