-- ==== Sys2Proof/Safety.lean ====
section
/-! DEFINITION. What a good state is, and what a safe step is. -/

namespace Sys2Proof.Machine

/-- The only values `STATUS` ever holds (R16). -/
def State.statusLegal (s : State) : Bool :=
  s.status == 0x00 || s.status == 0x01 || s.status == 0x12 || s.status == 0x22

/-- Between host accesses `PHASE` is `FAULTED` where `STATUS.FAULT` = 1 and `IDLE` elsewhere (R14, R146). -/
def State.phaseAgrees (s : State) : Bool :=
  s.phase == if statusFault s.status then .faulted else .idle

/-- Between host accesses the working registers hold no value (R19). -/
def State.noWorkingValues (s : State) : Bool :=
  s.laneS == none && s.laneT == none && s.rnd == none && s.opk == none && s.nl == none

/-- `CMD` holds the byte that `STATUS` reports on (R140, R120, R130, R170): the reset byte, a completed command, an
out-of-range command or a reserved operation code. -/
def State.cmdAgrees (s : State) : Bool :=
  match decode s.cmd with
  | .error _ => if s.status = 0x00 then s.cmd == 0x00 else s.status == 0x22
  | .ok i => if i.wellFormed then s.status == 0x01 else s.status == 0x12

/-- Before the first command ends, `DIGEST` is 32 zero bytes (R174). -/
def State.digestUntouched (s : State) : Bool :=
  s.status != 0x00 || s.digest == Vector.replicate 32 0x00

/-- A good state between host accesses. -/
abbrev State.Inv (s : State) : Prop :=
  s.mem.wf = true ∧ s.statusLegal = true ∧ s.phaseAgrees = true ∧ s.noWorkingValues = true ∧ s.cmdAgrees = true
    ∧ s.digestUntouched = true

/-- A safe step: the machine answers a next state, never one of the model errors of R155. -/
def State.StepSafe (s : State) : Prop := ∃ t, step s = .next t

/-- `k` steps, stopping at a model error. It is the host's `Host.Core.run` on this machine (`stepN_eq_run`). -/
def stepN : Nat → State → Result
  | 0, s => .next s
  | k + 1, s => step s |> andThen (stepN k)

end Sys2Proof.Machine
end

