-- ==== Sys2Proof/Certificates/Slice0/Obligations.lean ====
section
/-! DEFINITION. The statements for the provers. A host access is the head of the field `port`, and the bytes that reads
return are in the field `replies`: both are the model's own fields (log entry 1). `mem.wf` is the canonical form of the
stored bytes, which every state that a run reaches has (`EveryStepKeepsMemoryCanonical`, log entry 3). -/

open Sys2Proof Sys2Proof.Machine

/-! ### Encoding and decoding -/

/-- R50, R51: decoding undoes encoding for every command with every value of `N`, a byte that decodes is the encoding of
what it decodes to, and the table's word of a command decodes to it. -/
def Obligations.DecodeEncodeAgree : Prop :=
  (∀ i : Instr, decode (encode i) = .ok i) ∧
  (∀ (b : Byte) (i : Instr), decode b = .ok i → encode i = b) ∧
  (∀ i : Instr, decodeTableWord 8 (encode i).toNat = some i)

/-- R54: the 12 legal command bytes decode to the commands listed. -/
def Obligations.LegalBytesDecodeToTheirCommands : Prop :=
  decode 0x10 = .ok (.h512 0) ∧ decode 0x11 = .ok (.h512 1) ∧ decode 0x12 = .ok (.h512 2) ∧
  decode 0x13 = .ok (.h512 3) ∧ decode 0x14 = .ok (.h512 4) ∧ decode 0x15 = .ok (.h512 5) ∧
  decode 0x20 = .ok (.h512k 0) ∧ decode 0x21 = .ok (.h512k 1) ∧ decode 0x22 = .ok (.h512k 2) ∧
  decode 0x23 = .ok (.h512k 3) ∧ decode 0x24 = .ok (.h512k 4) ∧ decode 0x25 = .ok (.h512k 5)

/-- R53: a byte is one of the 12 legal ones exactly where it decodes to a well-formed command; `0x16`..`0x1F` and
`0x26`..`0x2F` raise `ROUNDS_RANGE`, `0x00`..`0x0F` and `0x30`..`0xFF` raise `ILLEGAL_OP`. -/
def Obligations.SubmitFaultsOnEveryIllegalByte : Prop :=
  (∀ b : Byte, (∃ i, decode b = .ok i ∧ i.wellFormed = true) ↔
    (0x10 ≤ b.toNat ∧ b.toNat ≤ 0x15) ∨ (0x20 ≤ b.toNat ∧ b.toNat ≤ 0x25)) ∧
  (∀ (b : Byte) (s : State), (0x16 ≤ b.toNat ∧ b.toNat ≤ 0x1F) ∨ (0x26 ≤ b.toNat ∧ b.toNat ≤ 0x2F) →
    submit b s = .next (s.raiseFault .roundsRange)) ∧
  (∀ (b : Byte) (s : State), b.toNat ≤ 0x0F ∨ 0x30 ≤ b.toNat →
    submit b s = .next (s.raiseFault .illegalOp))

/-! ### Steps: host accesses -/

/-- R50, R35: a write of a byte to `CMD` while `FAULT` = 0 stores the byte and runs the command it decodes to. -/
def Obligations.StepRunsDecodedCommand : Prop :=
  ∀ (s : State) (v : Byte) (rest : List HostAccess) (i : Instr),
    s.port = .write 0xA0 v :: rest → statusFault s.status = false → decode v = .ok i →
    step s = exec i { s with port := rest, cmd := v }

/-- The model's own `withFetchWord` (log entry 2): the next step runs exactly the placed command, and the pending
accesses behind it stay. -/
def Obligations.StepRunsFetchedWord : Prop :=
  ∀ (s : State) (w : Nat) (i : Instr),
    statusFault s.status = false → decodeTableWord 8 w = some i →
    step (s.withFetchWord 8 w) = exec i { s with cmd := BitVec.ofNat 8 w }

/-- R142, R144: a reserved operation code raises `ILLEGAL_OP`: `STATUS` reports it, `CMD` keeps the byte, the sequencer
rests in `FAULTED`, and nothing else changes. -/
def Obligations.ReservedOperationCodeRaisesIllegalOp : Prop :=
  ∀ (s : State) (v : Byte) (rest : List HostAccess),
    s.port = .write 0xA0 v :: rest → statusFault s.status = false → v.toNat ≤ 0x0F ∨ 0x30 ≤ v.toNat →
    ∃ st : BitVec 8,
      step s = .next { s with port := rest, cmd := v, status := st, phase := .faulted, rnd := none } ∧
      statusDone st = false ∧ statusFault st = true ∧ statusCause st = 0x2 ∧
      statusReserved st = statusReserved s.status

/-- R34: a host read returns the byte of the map at its address and changes no state. -/
def Obligations.HostReadReturnsTheMappedByte : Prop :=
  ∀ (s : State) (a : BitVec 8) (rest : List HostAccess), s.port = .read a :: rest →
    ∃ v : Byte, step s = .next { s with port := rest, replies := s.replies ++ [v] } ∧
      (∀ j : Fin 64, a.toNat = 0x00 + j.val → v = s.stateIn[j]) ∧
      (∀ j : Fin 64, a.toNat = 0x40 + j.val → v = s.keyIn[j]) ∧
      (∀ j : Fin 32, a.toNat = 0x80 + j.val → v = s.digest[j]) ∧
      (a = 0xA0 → v = s.cmd) ∧ (a = 0xA1 → v = s.status) ∧ (0xA2 ≤ a.toNat → v = 0x00)

/-- R35: a host write stores its byte in `STATE_IN` or `KEY_IN`, submits it at `CMD` unless the engine is faulted, and
does nothing at every other address. -/
def Obligations.HostWriteStoresOrSubmitsOrIsIgnored : Prop :=
  ∀ (s : State) (a : BitVec 8) (v : Byte) (rest : List HostAccess),
    s.mem.wf = true → s.port = .write a v :: rest →
    (a.toNat ≤ 0x7F → ∃ m : Memory, step s = .next { s with port := rest, mem := m } ∧ m.wf = true ∧
      ∀ x : Nat, m.read x = if x = a.toNat then v else s.mem.read x) ∧
    (a = 0xA0 → step s = if statusFault s.status then .next { s with port := rest }
      else submit v { s with port := rest, cmd := v }) ∧
    (0x80 ≤ a.toNat ∧ a ≠ 0xA0 → step s = .next { s with port := rest })

/-- From R21, R22 and R170: reset, from any state (in the middle of an operation too), gives every buffer byte, `CMD` and
`STATUS` the value `0x00`, puts the sequencer in `IDLE` and leaves the working registers without value. The last equation
also says that the two ends of the host port stay, which no rule says: it is the model's choice (log entry 1). -/
def Obligations.ResetLeavesTheResetState : Prop :=
  ∀ (s : State) (rest : List HostAccess), s.port = .reset :: rest →
    ∃ t : State, step s = .next t ∧
      t.stateIn = Vector.replicate 64 0x00 ∧ t.keyIn = Vector.replicate 64 0x00 ∧
      t.digest = Vector.replicate 32 0x00 ∧ t.cmd = 0x00 ∧ t.status = 0x00 ∧ t.phase = .idle ∧
      t.laneS = none ∧ t.laneT = none ∧ t.rnd = none ∧ t.opk = none ∧ t.nl = none ∧
      t = { State.reset with port := rest, replies := s.replies }

/-- The model's choice (log entry 1): with no access pending a step leaves the state as it is. -/
def Obligations.StepWithoutAccessKeepsTheState : Prop :=
  ∀ s : State, s.port = [] → step s = .next s

/-- From the sentences of R155 and R156 that the spec marks as derived: from every state whatever, the machine answers a
next state; neither model error can occur. -/
def Obligations.EveryStepAnswersNext : Prop :=
  ∀ s : State, s.StepSafe

/-! ### Fault entry -/

/-- R144: fault entry clears `DONE`, sets `FAULT` and `CAUSE`, puts the sequencer at `(FAULTED, -)`, and changes nothing
else. -/
def Obligations.FaultEntrySetsStatusAndPhaseOnly : Prop :=
  ∀ (s : State) (c : Cause),
    ∃ st : BitVec 8, s.raiseFault c = { s with status := st, phase := .faulted, rnd := none } ∧
      statusDone st = false ∧ statusFault st = true ∧
      statusCause st = (match c with | .roundsRange => 0x1 | .illegalOp => 0x2) ∧
      statusReserved st = statusReserved s.status

/-- R141: either command with `N` in 6..15 raises `ROUNDS_RANGE`, whatever the state, and has no other effect; from the
two unfaulted values of `STATUS` it leaves `0x12`. -/
def Obligations.RoundCountAboveFiveRaisesRoundsRange : Prop :=
  ∀ (n : BitVec 4) (s : State), 6 ≤ n.toNat →
    ∃ st : BitVec 8,
      exec (.h512 n) s = .next { s with status := st, phase := .faulted, rnd := none } ∧
      exec (.h512k n) s = .next { s with status := st, phase := .faulted, rnd := none } ∧
      statusDone st = false ∧ statusFault st = true ∧ statusCause st = 0x1 ∧
      statusReserved st = statusReserved s.status ∧
      (s.status = 0x00 ∨ s.status = 0x01 → st = 0x12)

/-- R146: while `FAULT` = 1 a write to `CMD` changes nothing; a write to `STATE_IN` or `KEY_IN` is still stored, and a read
still answers, with nothing else changed; no step but a reset changes `STATUS`, `CMD` or `PHASE`, and a reset clears
`FAULT`. -/
def Obligations.FaultStaysUntilReset : Prop :=
  ∀ (s : State) (rest : List HostAccess), s.mem.wf = true → statusFault s.status = true →
    (∀ v : Byte, s.port = .write 0xA0 v :: rest → step s = .next { s with port := rest }) ∧
    (∀ (a : BitVec 8) (v : Byte), s.port = .write a v :: rest → a.toNat ≤ 0x7F →
      ∃ m : Memory, step s = .next { s with port := rest, mem := m } ∧
        ∀ x : Nat, m.read x = if x = a.toNat then v else s.mem.read x) ∧
    (∀ a : BitVec 8, s.port = .read a :: rest →
      ∃ v : Byte, step s = .next { s with port := rest, replies := s.replies ++ [v] }) ∧
    (∀ (acc : HostAccess) (t : State), s.port = acc :: rest → acc ≠ .reset → step s = .next t →
      t.status = s.status ∧ t.cmd = s.cmd ∧ t.phase = s.phase ∧ t.digest = s.digest) ∧
    (s.port = .reset :: rest → ∃ t : State, step s = .next t ∧ statusFault t.status = false ∧ t.phase = .idle)

/-! ### The two commands -/

/-- R120, R123: `H512 n` with `n` in 0..5 completes from every state: `DIGEST` is `Haraka512(STATE_IN, n)`, `DONE` is
set, the engine is back in `IDLE` with working registers without value, and nothing else changes. -/
def Obligations.H512WritesHaraka512OfTheInput : Prop :=
  ∀ (n : BitVec 4) (h : n.toNat ≤ Config.maxRounds) (s : State), s.mem.wf = true →
    ∃ m : Memory,
      exec (.h512 n) s = .next { s with
        mem := m, status := setDone true s.status, phase := .idle, laneS := none, laneT := none, rnd := none,
        opk := none, nl := none } ∧
      m.wf = true ∧
      (∀ a : Nat, m.read a =
        if ha : 0x80 ≤ a ∧ a < 0xA0 then (haraka512 s.stateIn n.toNat h)[a - 0x80] else s.mem.read a) ∧
      (s.status = 0x00 ∨ s.status = 0x01 → setDone true s.status = 0x01)

/-- R130, R133: `H512K n` with `n` in 0..5 completes from every state: `DIGEST` is
`Haraka512(STATE_IN ^ KEY_IN, n)`; the rest as for `H512 n`. -/
def Obligations.H512KWritesHaraka512OfTheKeyedInput : Prop :=
  ∀ (n : BitVec 4) (h : n.toNat ≤ Config.maxRounds) (s : State), s.mem.wf = true →
    ∃ m : Memory,
      exec (.h512k n) s = .next { s with
        mem := m, status := setDone true s.status, phase := .idle, laneS := none, laneT := none, rnd := none,
        opk := none, nl := none } ∧
      m.wf = true ∧
      (∀ a : Nat, m.read a =
        if ha : 0x80 ≤ a ∧ a < 0xA0 then (haraka512 (xorBlock s.stateIn s.keyIn) n.toNat h)[a - 0x80]
        else s.mem.read a) ∧
      (s.status = 0x00 ∨ s.status = 0x01 → setDone true s.status = 0x01)

/-- R18: no command changes `STATE_IN`, `KEY_IN`, `CMD` or the host's end of the port, and no byte outside `DIGEST`
changes; this is the frame of both commands for every `N`. -/
def Obligations.CommandsChangeNoInputByte : Prop :=
  ∀ (i : Instr) (s t : State), s.mem.wf = true → exec i s = .next t →
    t.stateIn = s.stateIn ∧ t.keyIn = s.keyIn ∧ t.cmd = s.cmd ∧ t.port = s.port ∧ t.replies = s.replies ∧
    statusReserved t.status = statusReserved s.status ∧
    (∀ a : Nat, ¬ (0x80 ≤ a ∧ a < 0xA0) → t.mem.read a = s.mem.read a) ∧
    (i.wellFormed = false → t.mem = s.mem)

/-- From R36: a write to `CMD` from a good unfaulted state is one step, which ends with the operation finished (`STATUS` =
`0x01`, `DIGEST` written from the input buffers as they stood) or with the command faulted (`FAULT` = 1, `DIGEST`
unchanged); in both cases `CMD` is the byte and the input buffers stand. R36 says only that `DIGEST` is written: the two
equations that give its value are those that the spec marks as derived in R123 and R133. -/
def Obligations.CommandWriteFinishesOrFaults : Prop :=
  ∀ (s : State) (v : Byte) (rest : List HostAccess),
    s.Inv → statusFault s.status = false → s.port = .write 0xA0 v :: rest →
    ∃ t : State, step s = .next t ∧
      (t.status = 0x01 ∧ t.phase = .idle ∧ (∃ (n : Nat) (h : n ≤ Config.maxRounds),
          v.toNat = 0x10 + n ∧ t.digest = haraka512 s.stateIn n h ∨
          v.toNat = 0x20 + n ∧ t.digest = haraka512 (xorBlock s.stateIn s.keyIn) n h) ∨
        statusFault t.status = true ∧ statusDone t.status = false ∧ t.phase = .faulted ∧ t.digest = s.digest) ∧
      t.cmd = v ∧ t.stateIn = s.stateIn ∧ t.keyIn = s.keyIn ∧ t.port = rest ∧ t.replies = s.replies

/-- R125: the digest of `H512 n` depends on `STATE_IN` and `n` only: from two states that agree on `STATE_IN`, and differ
in anything else, both runs complete and write the same digest. -/
def Obligations.H512DigestDependsOnStateInOnly : Prop :=
  ∀ (n : BitVec 4) (s s' : State), n.toNat ≤ Config.maxRounds → s.mem.wf = true → s'.mem.wf = true →
    s.stateIn = s'.stateIn →
    ∃ t t' : State, exec (.h512 n) s = .next t ∧ exec (.h512 n) s' = .next t' ∧ t.digest = t'.digest

/-- The consequences that R133 draws: the digest of `H512K n` depends on `STATE_IN` and `KEY_IN` only through their
exclusive-or, and swapping state and key gives the same digest. -/
def Obligations.H512KDigestDependsOnTheExclusiveOrOnly : Prop :=
  (∀ (n : BitVec 4) (s s' : State), n.toNat ≤ Config.maxRounds → s.mem.wf = true → s'.mem.wf = true →
    xorBlock s.stateIn s.keyIn = xorBlock s'.stateIn s'.keyIn →
    ∃ t t' : State, exec (.h512k n) s = .next t ∧ exec (.h512k n) s' = .next t' ∧ t.digest = t'.digest) ∧
  (∀ (n : BitVec 4) (s s' : State), n.toNat ≤ Config.maxRounds → s.mem.wf = true → s'.mem.wf = true →
    s'.stateIn = s.keyIn → s'.keyIn = s.stateIn →
    ∃ t t' : State, exec (.h512k n) s = .next t ∧ exec (.h512k n) s' = .next t' ∧ t.digest = t'.digest)

/-- R134: with `KEY_IN` all `0x00`, `H512K n` has the outcome of `H512 n`, for every state and every `n`. -/
def Obligations.ZeroKeyGivesTheUnkeyedOutcome : Prop :=
  ∀ (n : BitVec 4) (s : State), s.keyIn = Vector.replicate 64 0x00 → exec (.h512k n) s = exec (.h512 n) s

/-- R124, R135: with `n` = 0 both commands complete and write 32 bytes of `0x00`. -/
def Obligations.ZeroRoundsWriteAZeroDigest : Prop :=
  ∀ s : State, s.mem.wf = true →
    (∃ t, exec (.h512 0) s = .next t ∧ t.digest = Vector.replicate 32 0x00 ∧ statusDone t.status = true) ∧
    (∃ t, exec (.h512k 0) s = .next t ∧ t.digest = Vector.replicate 32 0x00 ∧ statusDone t.status = true)

/-- R125: issuing the same command again, with nothing rewritten, leaves the very same state. -/
def Obligations.RepeatedCommandLeavesTheSameState : Prop :=
  ∀ (i : Instr) (s t : State), s.mem.wf = true → exec i s = .next t → exec i t = .next t

/-- R132: feeding forward the raw input in place of the keyed one gives a digest that differs from the right one by
exactly the key on the 32 selected byte positions. -/
def Obligations.FeedForwardTargetsTheKeyedState : Prop :=
  ∀ (X K : Block) (n : Nat) (h : n ≤ Config.maxRounds) (t : Nat) (ht : t < 32),
    (truncate (xorLanes (roundsf n h (loadLanes (xorBlock X K))) (loadLanes X)))[t] =
      (haraka512K X K n h)[t] ^^^ (truncate (loadLanes K))[t]

/-! ### The micro-operations -/

/-- R71: `LOAD` takes byte `k` to lane byte `k`; the micro-operation fills the working state from `STATE_IN`,
`S[i][k] = STATE_IN[16*i + k]`, and changes nothing else. -/
def Obligations.LoadFillsTheWorkingState : Prop :=
  (∀ (B : Vector Byte 16) (k : Fin 16), (loadLane B)[k] = B[k]) ∧
  ∀ s : State, ∃ S : Lanes, load s = .next { s with laneS := some S } ∧
    ∀ (i : Fin 4) (k : Fin 16), S[i][k] = s.stateIn[16 * i.val + k.val]

/-- R131: KEYXOR adds `KEY_IN` to the working state byte by byte and changes nothing else. -/
def Obligations.KeyXorAddsTheKey : Prop :=
  ∀ (s : State) (S : Lanes), s.laneS = some S →
    ∃ S' : Lanes, keyXor s = .next { s with laneS := some S' } ∧
      ∀ (i : Fin 4) (k : Fin 16), S'[i][k] = S[i][k] ^^^ s.keyIn[16 * i.val + k.val]

/-- R121: SAVE copies the working lanes to the feed-forward lanes and changes nothing else. -/
def Obligations.SaveCopiesTheWorkingLanes : Prop :=
  ∀ (s : State) (S : Lanes), s.laneS = some S → save s = .next { s with laneT := some S }

/-- R122: FFWD adds saved lane `i` to working lane `i`, byte `k` to byte `k`, and changes nothing else. -/
def Obligations.FeedForwardAddsTheSavedLanes : Prop :=
  ∀ (s : State) (S T : Lanes), s.laneS = some S → s.laneT = some T →
    ∃ S' : Lanes, ffwd s = .next { s with laneS := some S' } ∧
      ∀ (i : Fin 4) (k : Fin 16), S'[i][k] = S[i][k] ^^^ T[i][k]

/-- R101: `AES2(r)` applies to lane `i` two AES rounds with the entries `8*r + 2*i` and `8*r + 2*i + 1` of the ROM, and
changes nothing else. -/
def Obligations.Aes2AppliesTwoRoundsToEachLane : Prop :=
  ∀ (s : State) (S : Lanes) (r : BitVec 3), s.laneS = some S → s.rnd = some r → r.toNat ≤ 4 →
    ∃ S' : Lanes, aes2 s = .next { s with laneS := some S' } ∧
      ∀ i : Fin 4, ∃ k0 k1 : Lane, rom[8 * r.toNat + 2 * i.val]? = some k0 ∧
        rom[8 * r.toNat + 2 * i.val + 1]? = some k1 ∧ S'[i] = aesRnd (aesRnd S[i] k0) k1

/-- R102: MIX moves word `srcWord` of lane `srcLane` of the old state to word `w` of lane `i` of the new one, and
changes nothing else. -/
def Obligations.MixMovesWordsByTheTable : Prop :=
  ∀ (s : State) (S : Lanes), s.laneS = some S →
    ∃ S' : Lanes, mix s = .next { s with laneS := some S' } ∧
      ∀ i w : Fin 4,
        let srcLane : Fin 4 := #v[#v[0, 2, 1, 3], #v[2, 0, 3, 1], #v[2, 0, 3, 1], #v[0, 2, 1, 3]][i][w]
        let srcWord : Fin 4 := #v[3, 0, 1, 2][i]
        laneWord S'[i] w = laneWord S[srcLane] srcWord

/-- R110: TRUNC writes the 32 selected bytes to `DIGEST`, sets `DONE`, returns the sequencer to `(IDLE, -)`, and changes
no other byte and no other register. -/
def Obligations.TruncWritesTheSelectedBytes : Prop :=
  ∀ (s : State) (S : Lanes), s.mem.wf = true → s.laneS = some S →
    ∃ m : Memory, trunc s = .next { s with mem := m, status := setDone true s.status, phase := .idle, rnd := none } ∧
      m.wf = true ∧
      (∀ t : Fin 8, m.read (0x80 + t.val) = S[0][8 + t.val] ∧ m.read (0x88 + t.val) = S[1][8 + t.val] ∧
        m.read (0x90 + t.val) = S[2][t.val] ∧ m.read (0x98 + t.val) = S[3][t.val]) ∧
      ∀ a : Nat, ¬ (0x80 ≤ a ∧ a < 0xA0) → m.read a = s.mem.read a

/-- From R19 and the sentence of R155 that the spec marks as derived: every read of `S`, `T`, `RND`, `OPK` or `NL` while it
holds no value stops with the model error that names the register, in the micro-operations, in the counted loop and in
the sequencer (level M, log entry 7). An AES step with a round index above 4 stops with a ROM address that has no entry;
that the address named is lane 0's, `8*r` in 6 bits, is the model's order over the lanes (log entry 12). -/
def Obligations.ReadingNoValueIsAModelError : Prop :=
  (∀ s : State, s.laneS = none → keyXor s = .fault (.noValue .laneS) ∧ save s = .fault (.noValue .laneS) ∧
    mix s = .fault (.noValue .laneS) ∧ ffwd s = .fault (.noValue .laneS) ∧ trunc s = .fault (.noValue .laneS)) ∧
  (∀ (s : State) (r : BitVec 3), s.rnd = some r → s.laneS = none → aes2 s = .fault (.noValue .laneS)) ∧
  (∀ (s : State) (S : Lanes), s.laneS = some S → s.laneT = none → ffwd s = .fault (.noValue .laneT)) ∧
  (∀ s : State, s.rnd = none → aes2 s = .fault (.noValue .rnd)) ∧
  (∀ (s : State) (S : Lanes), s.phase = .mix → s.laneS = some S → s.rnd = none →
    microStep s = .fault (.noValue .rnd)) ∧
  (∀ s : State, s.opk = none → afterLoad s = .fault (.noValue .opk)) ∧
  (∀ (s : State) (r : Nat), s.nl = none → rounds s = .fault (.noValue .nl) ∧ nextRound r s = .fault (.noValue .nl)) ∧
  (∀ (s : State) (S : Lanes) (r : BitVec 3), s.laneS = some S → s.rnd = some r → 5 ≤ r.toNat →
    aes2 s = .fault (.romAddress (BitVec.ofNat 6 (8 * r.toNat))))

/-! ### The sequencer -/

/-- R14: the sequencer takes the positions of the spec's list, in order, and ends in `IDLE`. -/
def Obligations.SequencerTakesThePositionsInOrder : Prop :=
  ∀ (keyed : Bool) (n : BitVec 4) (s : State), n.toNat ≤ Config.maxRounds →
    ∀ (j : Nat) (hj : j < (positions keyed n.toNat).length),
      ∃ t : State, microRun j (s.start keyed n) = .next t ∧ (t.phase, t.rnd) = (positions keyed n.toNat)[j]

/-- R4: level M agrees with the commands: the whole run of the sequencer from an accepted command is the command's one
step, in both forms. -/
def Obligations.SequencerRunIsTheCommand : Prop :=
  ∀ (n : BitVec 4) (s : State), n.toNat ≤ Config.maxRounds →
    microRun (microCount false n.toNat) (s.start false n) = exec (.h512 n) s ∧
    microRun (microCount true n.toNat) (s.start true n) = exec (.h512k n) s

/-- From R172: before TRUNC has run, no micro-step has changed a stored byte, and reset from there gives the reset state:
the operation is abandoned. That the micro-steps are a machine of their own is the model's reading (log entry 7), and
that the two ends of the host port stay is the model's choice (log entry 1). -/
def Obligations.ResetDuringAnOperationAbandonsIt : Prop :=
  ∀ (keyed : Bool) (n : BitVec 4) (s t : State) (j : Nat), n.toNat ≤ Config.maxRounds →
    j < microCount keyed n.toNat → microRun j (s.start keyed n) = .next t →
    t.mem = s.mem ∧ statusDone t.status = false ∧
    t.assertReset = { State.reset with port := s.port, replies := s.replies }

/-! ### Lane primitives -/

/-- R72: `STORE` takes lane byte `k` to byte `k`, and `STORE` and `LOAD` are inverse to each other. -/
def Obligations.StoreAndLoadAreInverse : Prop :=
  (∀ (L : Lane) (k : Fin 16), (storeLane L)[k] = L[k]) ∧
  (∀ B : Vector Byte 16, storeLane (loadLane B) = B) ∧ (∀ L : Lane, loadLane (storeLane L) = L)

/-- R73: `XOR` is byte-wise, associative and commutative, with the all-zero lane as identity. -/
def Obligations.XorLaneLaws : Prop :=
  (∀ (A B : Lane) (k : Fin 16), (xorLane A B)[k] = A[k] ^^^ B[k]) ∧
  (∀ A B C : Lane, xorLane (xorLane A B) C = xorLane A (xorLane B C)) ∧
  (∀ A B : Lane, xorLane A B = xorLane B A) ∧ (∀ A : Lane, xorLane A zeroLane = A)

/-- R74: the S-box table equals its definition (field inverse, then the affine map), it is a permutation, and SubBytes
applies it to each byte. -/
def Obligations.SboxTableIsItsDefinition : Prop :=
  (∀ b : Byte, ∃ y : Byte, (b = 0x00 ∧ y = 0x00 ∨ gfMul b y = 0x01) ∧ sbox b = sboxAffine y) ∧
  (∀ b c : Byte, sbox b = sbox c → b = c) ∧
  (∀ (L : Lane) (k : Fin 16), (subBytes L)[k] = sbox L[k])

/-- R75: ShiftRows rotates row `r` of the matrix of R70 left by `r` columns. -/
def Obligations.ShiftRowsRotatesEachRow : Prop :=
  ∀ (L : Lane) (r c : Fin 4), (shiftRows L)[4 * c.val + r.val] = L[4 * ((c.val + r.val) % 4) + r.val]

/-- R76: MixColumns multiplies each column by the matrix `(2 3 1 1)`, `(1 2 3 1)`, `(1 1 2 3)`, `(3 1 1 2)` over
GF(2^8); a column of four equal bytes maps to itself. -/
def Obligations.MixColumnsMultipliesByTheMatrix : Prop :=
  (∀ (L : Lane) (c : Fin 4),
    let a0 := L[4 * c.val]
    let a1 := L[4 * c.val + 1]
    let a2 := L[4 * c.val + 2]
    let a3 := L[4 * c.val + 3]
    (mixColumns L)[4 * c.val] = gfMul 0x02 a0 ^^^ gfMul 0x03 a1 ^^^ a2 ^^^ a3 ∧
    (mixColumns L)[4 * c.val + 1] = a0 ^^^ gfMul 0x02 a1 ^^^ gfMul 0x03 a2 ^^^ a3 ∧
    (mixColumns L)[4 * c.val + 2] = a0 ^^^ a1 ^^^ gfMul 0x02 a2 ^^^ gfMul 0x03 a3 ∧
    (mixColumns L)[4 * c.val + 3] = gfMul 0x03 a0 ^^^ a1 ^^^ a2 ^^^ gfMul 0x02 a3) ∧
  (∀ v : Byte, mixColumn v v v v = #v[v, v, v, v])

/-- R78: the AES round is SubBytes, ShiftRows, MixColumns, AddRoundKey; SubBytes and ShiftRows commute, and the key is
added last. -/
def Obligations.AesRoundOrder : Prop :=
  (∀ L RK : Lane, aesRnd L RK = xorLane (mixColumns (shiftRows (subBytes L))) RK) ∧
  (∀ L : Lane, shiftRows (subBytes L) = subBytes (shiftRows L)) ∧
  (∀ L RK : Lane, aesRnd L RK = xorLane (aesRnd L zeroLane) RK)

/-! ### The ROM -/

/-- R59: the ROM address of round `r`, lane `i`, AES round `j` is `8*r + 2*i + j`, at most 39 in the rounds 0..4, and no
two triples share an address. -/
def Obligations.RomAddressIsTheConcatenation : Prop :=
  (∀ (r : BitVec 3) (i : BitVec 2) (j : BitVec 1),
    (romAddr r i j).toNat = 8 * r.toNat + 2 * i.toNat + j.toNat ∧ (r.toNat ≤ 4 → (romAddr r i j).toNat ≤ 39)) ∧
  (∀ (r r' : BitVec 3) (i i' : BitVec 2) (j j' : BitVec 1),
    romAddr r i j = romAddr r' i' j' → r = r' ∧ i = i' ∧ j = j')

/-- R92, R44: a ROM read answers at the addresses 0..39 and is a model error at 40..63. -/
def Obligations.RomHasExactlyFortyEntries : Prop :=
  ∀ a : BitVec 6, (a.toNat < 40 → ∃ k, romRead a = .ok k ∧ rom[a.toNat]? = some k) ∧
    (40 ≤ a.toNat → romRead a = .error (.romAddress a))

/-- R93: the ROM holds the published constants, `ROM[8*r + 2*i + j] = bytes_of(RC_{8*r + 4*j + i})`. -/
def Obligations.RomHoldsThePublishedConstants : Prop :=
  ∀ (r : Fin 5) (i : Fin 4) (j : Fin 2),
    ∃ c : BitVec 128, published[8 * r.val + 4 * j.val + i.val]? = some c ∧
      rom[8 * r.val + 2 * i.val + j.val]? = some (bytesOf c)

/-! ### The mix -/

/-- The byte map of MIX, which the spec marks as derived from its word table (R103), as `(new byte, old byte)` by
position, and its consequences: MIX is a bijection and is not its own inverse. -/
def Obligations.MixIsTheByteMapAndABijection : Prop :=
  (∀ (S : Lanes) (j : Fin 64), stateByte (mixLanes S) j = stateByte S (
    #v[0x0c, 0x0d, 0x0e, 0x0f, 0x2c, 0x2d, 0x2e, 0x2f, 0x1c, 0x1d, 0x1e, 0x1f, 0x3c, 0x3d, 0x3e, 0x3f,
      0x20, 0x21, 0x22, 0x23, 0x00, 0x01, 0x02, 0x03, 0x30, 0x31, 0x32, 0x33, 0x10, 0x11, 0x12, 0x13,
      0x24, 0x25, 0x26, 0x27, 0x04, 0x05, 0x06, 0x07, 0x34, 0x35, 0x36, 0x37, 0x14, 0x15, 0x16, 0x17,
      0x08, 0x09, 0x0a, 0x0b, 0x28, 0x29, 0x2a, 0x2b, 0x18, 0x19, 0x1a, 0x1b, 0x38, 0x39, 0x3a, 0x3b][j])) ∧
  (∀ S S' : Lanes, mixLanes S = mixLanes S' → S = S') ∧
  (∀ S' : Lanes, ∃ S : Lanes, mixLanes S = S') ∧
  (∃ S : Lanes, mixLanes (mixLanes S) ≠ S)

/-- The diffusion of MIX, which the spec marks as derived (R104): every output lane takes one word from each of the four
input lanes. -/
def Obligations.MixTakesOneWordFromEachLane : Prop :=
  ∀ out src : Fin 4, ∃ w w' : Fin 4, ∀ S : Lanes, laneWord (mixLanes S)[out] w = laneWord S[src] w'

/-! ### Invariants -/

/-- R21, R22: the reset state is good and its memory canonical. -/
def Obligations.ResetStateIsGood : Prop := State.reset.Inv

/-- Every step keeps the good states good: `STATUS` takes only its four values (R16), `PHASE` and `FAULT` agree (R14,
R146), working registers hold no value between accesses (R19), `CMD` holds the byte `STATUS` reports on (R140), `DIGEST`
is zero until a command ends (R174), and the stored bytes keep their canonical form (log entry 3). -/
def Obligations.EveryStepKeepsGoodStates : Prop :=
  ∀ s t : State, s.Inv → step s = .next t → t.Inv

/-- The canonical form of the stored bytes, a choice of the model (log entry 3), is kept by every step from every state
that has it, whatever else the state holds. -/
def Obligations.EveryStepKeepsMemoryCanonical : Prop :=
  ∀ s t : State, s.mem.wf = true → step s = .next t → t.mem.wf = true

/-- R112: `DIGEST` changes only in a step that is a reset or an accepted command. -/
def Obligations.DigestChangesOnlyByAcceptedCommandOrReset : Prop :=
  ∀ s t : State, s.mem.wf = true → step s = .next t → t.digest ≠ s.digest →
    (∃ rest, s.port = .reset :: rest) ∨
    ∃ v rest i, s.port = .write 0xA0 v :: rest ∧ statusFault s.status = false ∧ decode v = .ok i ∧
      i.wellFormed = true

/-! ### Pseudo-instructions -/

/-- R57: `WR`, `RD` and `RESET` are single host accesses; a command with `n` in 0..5 is the write of `0x10 + n` or
`0x20 + n` to `CMD`, a byte that decodes to that command; every other `n` is rejected. -/
def Obligations.AssemblerTakesLegalRoundCountsOnly : Prop :=
  (∀ (a : BitVec 8) (v : Byte), (Stmt.wr a v).expand = some [.write a v] ∧ (Stmt.rd a).expand = some [.read a]) ∧
  Stmt.reset.expand = some [.reset] ∧
  (∀ n : Nat, n ≤ 5 →
    (Stmt.h512 n).expand = some [.write 0xA0 (BitVec.ofNat 8 (0x10 + n))] ∧
    (Stmt.h512k n).expand = some [.write 0xA0 (BitVec.ofNat 8 (0x20 + n))] ∧
    decode (BitVec.ofNat 8 (0x10 + n)) = .ok (.h512 (BitVec.ofNat 4 n)) ∧
    decode (BitVec.ofNat 8 (0x20 + n)) = .ok (.h512k (BitVec.ofNat 4 n))) ∧
  (∀ n : Nat, 5 < n → (Stmt.h512 n).expand = none ∧ (Stmt.h512k n).expand = none)

/-- R58: the 64 host writes of `LDSTATE h` make `STATE_IN` equal to `h`, those of `LDKEY h` make `KEY_IN` equal to `h`,
and neither changes another byte or register; this holds in every state, a faulted one too. -/
def Obligations.LoadStatementsFillTheirBuffer : Prop :=
  ∀ (s : State) (h : Block) (rest : List HostAccess), s.mem.wf = true →
    (s.port = ldstateAccesses h ++ rest → ∃ m : Memory,
      stepN 64 s = .next { s with port := rest, mem := m } ∧ m.wf = true ∧
      ∀ a : Nat, m.read a = if ha : a < 64 then h[a] else s.mem.read a) ∧
    (s.port = ldkeyAccesses h ++ rest → ∃ m : Memory,
      stepN 64 s = .next { s with port := rest, mem := m } ∧ m.wf = true ∧
      ∀ a : Nat, m.read a = if ha : 0x40 ≤ a ∧ a < 0x80 then h[a - 0x40] else s.mem.read a)

/-- R58, R123: the pseudo-instruction `HARAKA512 n, h`, in any good unfaulted state, returns `STATUS` = `0x01` and then
the 32 bytes of `Haraka512(h, n)`. -/
def Obligations.Haraka512StatementReturnsTheDigest : Prop :=
  ∀ (s : State) (n : Nat) (hn : n ≤ Config.maxRounds) (h : Block) (acc rest : List HostAccess),
    s.Inv → statusFault s.status = false → (Stmt.haraka512 n h).expand = some acc → s.port = acc ++ rest →
    ∃ t : State, stepN acc.length s = .next t ∧
      t.replies = s.replies ++ 0x01 :: (haraka512 h n hn).toList ∧ t.port = rest ∧ t.stateIn = h ∧
      t.keyIn = s.keyIn ∧ t.Inv

/-- R58, R133: the pseudo-instruction `HARAKA512K n, h, k`, in any good unfaulted state, returns `STATUS` = `0x01` and
then the 32 bytes of `Haraka512(h ^ k, n)`. -/
def Obligations.Haraka512KStatementReturnsTheDigest : Prop :=
  ∀ (s : State) (n : Nat) (hn : n ≤ Config.maxRounds) (h k : Block) (acc rest : List HostAccess),
    s.Inv → statusFault s.status = false → (Stmt.haraka512k n h k).expand = some acc → s.port = acc ++ rest →
    ∃ t : State, stepN acc.length s = .next t ∧
      t.replies = s.replies ++ 0x01 :: (haraka512 (xorBlock h k) n hn).toList ∧ t.port = rest ∧ t.stateIn = h ∧
      t.keyIn = k ∧ t.Inv
end

