-- ==== Sys2Proof/Laws/Lanes.lean ====
section
/-! SUPPORT. The lane primitives byte by byte, and what the ROM, the AES step and the mix answer. -/

namespace Sys2Proof.Machine

/-! ### Byte `k` of each primitive -/

@[simp] theorem loadLane_eq (B : Vector Byte 16) : loadLane B = B := by
  ext k hk; simp [loadLane]

@[simp] theorem storeLane_eq (L : Lane) : storeLane L = L := by
  ext k hk; simp [storeLane]

@[simp] theorem zeroLane_getElem (k : Nat) (h : k < 16) : zeroLane[k] = 0x00 := by simp [zeroLane]

@[simp] theorem xorLane_getElem (A B : Lane) (k : Nat) (h : k < 16) : (xorLane A B)[k] = A[k] ^^^ B[k] := by
  simp [xorLane]

@[simp] theorem subBytes_getElem (L : Lane) (k : Nat) (h : k < 16) : (subBytes L)[k] = sbox L[k] := by
  simp [subBytes]

@[simp] theorem shiftRows_getElem (L : Lane) (k : Nat) (h : k < 16) : (shiftRows L)[k] = L[(5 * k) % 16] := by
  simp [shiftRows]

@[simp] theorem mixColumns_getElem (L : Lane) (k : Nat) (h : k < 16) :
    (mixColumns L)[k] =
      (mixColumn L[4 * (k / 4)] L[4 * (k / 4) + 1] L[4 * (k / 4) + 2] L[4 * (k / 4) + 3])[k % 4] := by
  simp [mixColumns]

@[simp] theorem addRoundKey_eq (L RK : Lane) : addRoundKey L RK = xorLane L RK := rfl

/-! ### Operand forms -/

@[simp] theorem loadLanes_getElem (B : Block) (i k : Nat) (hi : i < 4) (hk : k < 16) :
    (loadLanes B)[i][k] = B[16 * i + k] := by
  simp [loadLanes, laneBytes]

@[simp] theorem xorLanes_getElem (A B : Lanes) (i : Nat) (hi : i < 4) :
    (xorLanes A B)[i] = xorLane A[i] B[i] := by
  simp [xorLanes]

@[simp] theorem xorBlock_getElem (A B : Block) (j : Nat) (h : j < 64) : (xorBlock A B)[j] = A[j] ^^^ B[j] := by
  simp [xorBlock]

@[simp] theorem laneWord_getElem (L : Lane) (w : Fin 4) (b : Nat) (h : b < 4) :
    (laneWord L w)[b] = L[4 * w.val + b] := by
  simp [laneWord]

@[simp] theorem ofWords_getElem (w0 w1 w2 w3 : LaneWord) (k : Nat) (h : k < 16) :
    (ofWords w0 w1 w2 w3)[k] = #v[w0, w1, w2, w3][k / 4][k % 4] := by
  simp [ofWords]

@[simp] theorem segment_getElem (L : Lane) (g : Fin 2) (b : Nat) (h : b < 8) :
    (segment L g)[b] = L[8 * g.val + b] := by
  simp [segment]

@[simp] theorem ofSegments_getElem (g0 g1 g2 g3 : Segment) (t : Nat) (h : t < 32) :
    (ofSegments g0 g1 g2 g3)[t] = #v[g0, g1, g2, g3][t / 8][t % 8] := by
  simp [ofSegments]

/-! ### The lanes of the mix -/

@[simp] theorem mixLanes_lane0 (S : Lanes) :
    (mixLanes S)[0] = ofWords (laneWord S[0] 3) (laneWord S[2] 3) (laneWord S[1] 3) (laneWord S[3] 3) := rfl

@[simp] theorem mixLanes_lane1 (S : Lanes) :
    (mixLanes S)[1] = ofWords (laneWord S[2] 0) (laneWord S[0] 0) (laneWord S[3] 0) (laneWord S[1] 0) := rfl

@[simp] theorem mixLanes_lane2 (S : Lanes) :
    (mixLanes S)[2] = ofWords (laneWord S[2] 1) (laneWord S[0] 1) (laneWord S[3] 1) (laneWord S[1] 1) := rfl

@[simp] theorem mixLanes_lane3 (S : Lanes) :
    (mixLanes S)[3] = ofWords (laneWord S[0] 2) (laneWord S[2] 2) (laneWord S[1] 2) (laneWord S[3] 2) := rfl

/-- The words of a lane made of four words. -/
theorem laneWord_ofWords (w0 w1 w2 w3 : LaneWord) (w : Fin 4) :
    laneWord (ofWords w0 w1 w2 w3) w = #v[w0, w1, w2, w3][w] := by
  ext b hb
  have hw := w.isLt
  have e1 : (4 * w.val + b) / 4 = w.val := by omega
  have e2 : (4 * w.val + b) % 4 = b := by omega
  simp [e1, e2]

/-- Loading an exclusive-or is the exclusive-or of the loads. -/
theorem loadLanes_xorBlock (X K : Block) : loadLanes (xorBlock X K) = xorLanes (loadLanes X) (loadLanes K) := by
  ext i hi k hk
  simp

/-! ### The ROM -/

/-- The ROM address as a number (R59). -/
theorem romAddr_toNat (r : BitVec 3) (i : BitVec 2) (j : BitVec 1) :
    (romAddr r i j).toNat = 8 * r.toNat + 2 * i.toNat + j.toNat := by
  revert r i j; decide

/-- A ROM read answers its entry below 40 and a model error from 40 on, and nothing else. -/
theorem romRead_eq (a : BitVec 6) :
    romRead a = if h : a.toNat < rom.length then .ok rom[a.toNat] else .error (.romAddress a) := by
  unfold romRead
  by_cases h : a.toNat < rom.length
  · rw [dif_pos h, List.getElem?_eq_getElem h]
  · rw [dif_neg h, List.getElem?_eq_none (by omega)]

theorem romRead_romAddr (r : BitVec 3) (hr : r.toNat < 5) (i : BitVec 2) (j : BitVec 1) :
    romRead (romAddr r i j) = .ok (rom[8 * r.toNat + 2 * i.toNat + j.toNat]'(by
      have := i.isLt; have := j.isLt; rw [rom_length, Config.rcDepth]; omega)) := by
  have h := romAddr_toNat r i j
  have hi := i.isLt
  have hj := j.isLt
  have hl : (romAddr r i j).toNat < rom.length := by rw [rom_length, Config.rcDepth]; omega
  rw [romRead_eq, dif_pos hl]
  congr 2

/-- The AES step of a round 0..4 is the function `AES2f`. -/
theorem aes2Lanes_eq (r : BitVec 3) (hr : r.toNat < 5) (S : Lanes) : aes2Lanes r S = .ok (aes2f S ⟨r.toNat, hr⟩) := by
  have lane : ∀ (i : BitVec 2) (L : Lane), aes2Lane r i L = .ok (aesRnd (aesRnd L
      (rom[8 * r.toNat + 2 * i.toNat]'(by have := i.isLt; rw [rom_length, Config.rcDepth]; omega)))
      (rom[8 * r.toNat + 2 * i.toNat + 1]'(by have := i.isLt; rw [rom_length, Config.rcDepth]; omega))) := by
    intro i L
    unfold aes2Lane
    rw [romRead_romAddr r hr, romRead_romAddr r hr]
    rfl
  unfold aes2Lanes
  rw [lane, lane, lane, lane]
  show Except.ok _ = Except.ok _
  congr 1

end Sys2Proof.Machine
end

