-- ==== Sys2Proof/Laws/State.lean ====
section
/-! SUPPORT. What each named update of the state does to each field. -/

namespace Sys2Proof.Machine

variable (s : State)

/-! ### `storeByte` -/

@[simp] theorem State.storeByte_mem (a : Nat) (v : Byte) : (s.storeByte a v).mem = s.mem.write a v := rfl
@[simp] theorem State.storeByte_cmd (a : Nat) (v : Byte) : (s.storeByte a v).cmd = s.cmd := rfl
@[simp] theorem State.storeByte_status (a : Nat) (v : Byte) : (s.storeByte a v).status = s.status := rfl
@[simp] theorem State.storeByte_laneS (a : Nat) (v : Byte) : (s.storeByte a v).laneS = s.laneS := rfl
@[simp] theorem State.storeByte_laneT (a : Nat) (v : Byte) : (s.storeByte a v).laneT = s.laneT := rfl
@[simp] theorem State.storeByte_phase (a : Nat) (v : Byte) : (s.storeByte a v).phase = s.phase := rfl
@[simp] theorem State.storeByte_rnd (a : Nat) (v : Byte) : (s.storeByte a v).rnd = s.rnd := rfl
@[simp] theorem State.storeByte_opk (a : Nat) (v : Byte) : (s.storeByte a v).opk = s.opk := rfl
@[simp] theorem State.storeByte_nl (a : Nat) (v : Byte) : (s.storeByte a v).nl = s.nl := rfl
@[simp] theorem State.storeByte_port (a : Nat) (v : Byte) : (s.storeByte a v).port = s.port := rfl
@[simp] theorem State.storeByte_replies (a : Nat) (v : Byte) : (s.storeByte a v).replies = s.replies := rfl

/-! ### `storeDigest` -/

@[simp] theorem State.storeDigest_mem (d : Digest) : (s.storeDigest d).mem = s.mem.writeList 0x80 d.toList := rfl
@[simp] theorem State.storeDigest_cmd (d : Digest) : (s.storeDigest d).cmd = s.cmd := rfl
@[simp] theorem State.storeDigest_status (d : Digest) : (s.storeDigest d).status = s.status := rfl
@[simp] theorem State.storeDigest_laneS (d : Digest) : (s.storeDigest d).laneS = s.laneS := rfl
@[simp] theorem State.storeDigest_laneT (d : Digest) : (s.storeDigest d).laneT = s.laneT := rfl
@[simp] theorem State.storeDigest_phase (d : Digest) : (s.storeDigest d).phase = s.phase := rfl
@[simp] theorem State.storeDigest_rnd (d : Digest) : (s.storeDigest d).rnd = s.rnd := rfl
@[simp] theorem State.storeDigest_opk (d : Digest) : (s.storeDigest d).opk = s.opk := rfl
@[simp] theorem State.storeDigest_nl (d : Digest) : (s.storeDigest d).nl = s.nl := rfl
@[simp] theorem State.storeDigest_port (d : Digest) : (s.storeDigest d).port = s.port := rfl
@[simp] theorem State.storeDigest_replies (d : Digest) : (s.storeDigest d).replies = s.replies := rfl

/-! ### `setCmd` -/

@[simp] theorem State.setCmd_mem (v : Byte) : (s.setCmd v).mem = s.mem := rfl
@[simp] theorem State.setCmd_cmd (v : Byte) : (s.setCmd v).cmd = v := rfl
@[simp] theorem State.setCmd_status (v : Byte) : (s.setCmd v).status = s.status := rfl
@[simp] theorem State.setCmd_laneS (v : Byte) : (s.setCmd v).laneS = s.laneS := rfl
@[simp] theorem State.setCmd_laneT (v : Byte) : (s.setCmd v).laneT = s.laneT := rfl
@[simp] theorem State.setCmd_phase (v : Byte) : (s.setCmd v).phase = s.phase := rfl
@[simp] theorem State.setCmd_rnd (v : Byte) : (s.setCmd v).rnd = s.rnd := rfl
@[simp] theorem State.setCmd_opk (v : Byte) : (s.setCmd v).opk = s.opk := rfl
@[simp] theorem State.setCmd_nl (v : Byte) : (s.setCmd v).nl = s.nl := rfl
@[simp] theorem State.setCmd_port (v : Byte) : (s.setCmd v).port = s.port := rfl
@[simp] theorem State.setCmd_replies (v : Byte) : (s.setCmd v).replies = s.replies := rfl

/-! ### `setDone` -/

@[simp] theorem State.setDone_mem (b : Bool) : (s.setDone b).mem = s.mem := rfl
@[simp] theorem State.setDone_cmd (b : Bool) : (s.setDone b).cmd = s.cmd := rfl
@[simp] theorem State.setDone_status (b : Bool) : (s.setDone b).status = Machine.setDone b s.status := rfl
@[simp] theorem State.setDone_laneS (b : Bool) : (s.setDone b).laneS = s.laneS := rfl
@[simp] theorem State.setDone_laneT (b : Bool) : (s.setDone b).laneT = s.laneT := rfl
@[simp] theorem State.setDone_phase (b : Bool) : (s.setDone b).phase = s.phase := rfl
@[simp] theorem State.setDone_rnd (b : Bool) : (s.setDone b).rnd = s.rnd := rfl
@[simp] theorem State.setDone_opk (b : Bool) : (s.setDone b).opk = s.opk := rfl
@[simp] theorem State.setDone_nl (b : Bool) : (s.setDone b).nl = s.nl := rfl
@[simp] theorem State.setDone_port (b : Bool) : (s.setDone b).port = s.port := rfl
@[simp] theorem State.setDone_replies (b : Bool) : (s.setDone b).replies = s.replies := rfl

/-! ### `setS` -/

@[simp] theorem State.setS_mem (v : Lanes) : (s.setS v).mem = s.mem := rfl
@[simp] theorem State.setS_cmd (v : Lanes) : (s.setS v).cmd = s.cmd := rfl
@[simp] theorem State.setS_status (v : Lanes) : (s.setS v).status = s.status := rfl
@[simp] theorem State.setS_laneS (v : Lanes) : (s.setS v).laneS = some v := rfl
@[simp] theorem State.setS_laneT (v : Lanes) : (s.setS v).laneT = s.laneT := rfl
@[simp] theorem State.setS_phase (v : Lanes) : (s.setS v).phase = s.phase := rfl
@[simp] theorem State.setS_rnd (v : Lanes) : (s.setS v).rnd = s.rnd := rfl
@[simp] theorem State.setS_opk (v : Lanes) : (s.setS v).opk = s.opk := rfl
@[simp] theorem State.setS_nl (v : Lanes) : (s.setS v).nl = s.nl := rfl
@[simp] theorem State.setS_port (v : Lanes) : (s.setS v).port = s.port := rfl
@[simp] theorem State.setS_replies (v : Lanes) : (s.setS v).replies = s.replies := rfl

/-! ### `setT` -/

@[simp] theorem State.setT_mem (v : Lanes) : (s.setT v).mem = s.mem := rfl
@[simp] theorem State.setT_cmd (v : Lanes) : (s.setT v).cmd = s.cmd := rfl
@[simp] theorem State.setT_status (v : Lanes) : (s.setT v).status = s.status := rfl
@[simp] theorem State.setT_laneS (v : Lanes) : (s.setT v).laneS = s.laneS := rfl
@[simp] theorem State.setT_laneT (v : Lanes) : (s.setT v).laneT = some v := rfl
@[simp] theorem State.setT_phase (v : Lanes) : (s.setT v).phase = s.phase := rfl
@[simp] theorem State.setT_rnd (v : Lanes) : (s.setT v).rnd = s.rnd := rfl
@[simp] theorem State.setT_opk (v : Lanes) : (s.setT v).opk = s.opk := rfl
@[simp] theorem State.setT_nl (v : Lanes) : (s.setT v).nl = s.nl := rfl
@[simp] theorem State.setT_port (v : Lanes) : (s.setT v).port = s.port := rfl
@[simp] theorem State.setT_replies (v : Lanes) : (s.setT v).replies = s.replies := rfl

/-! ### `setPc` -/

@[simp] theorem State.setPc_mem (p : Phase) (r : Option (BitVec 3)) : (s.setPc p r).mem = s.mem := rfl
@[simp] theorem State.setPc_cmd (p : Phase) (r : Option (BitVec 3)) : (s.setPc p r).cmd = s.cmd := rfl
@[simp] theorem State.setPc_status (p : Phase) (r : Option (BitVec 3)) : (s.setPc p r).status = s.status := rfl
@[simp] theorem State.setPc_laneS (p : Phase) (r : Option (BitVec 3)) : (s.setPc p r).laneS = s.laneS := rfl
@[simp] theorem State.setPc_laneT (p : Phase) (r : Option (BitVec 3)) : (s.setPc p r).laneT = s.laneT := rfl
@[simp] theorem State.setPc_phase (p : Phase) (r : Option (BitVec 3)) : (s.setPc p r).phase = p := rfl
@[simp] theorem State.setPc_rnd (p : Phase) (r : Option (BitVec 3)) : (s.setPc p r).rnd = r := rfl
@[simp] theorem State.setPc_opk (p : Phase) (r : Option (BitVec 3)) : (s.setPc p r).opk = s.opk := rfl
@[simp] theorem State.setPc_nl (p : Phase) (r : Option (BitVec 3)) : (s.setPc p r).nl = s.nl := rfl
@[simp] theorem State.setPc_port (p : Phase) (r : Option (BitVec 3)) : (s.setPc p r).port = s.port := rfl
@[simp] theorem State.setPc_replies (p : Phase) (r : Option (BitVec 3)) : (s.setPc p r).replies = s.replies := rfl

/-! ### `accept` -/

@[simp] theorem State.accept_mem (k : Bool) (n : BitVec 4) : (s.accept k n).mem = s.mem := rfl
@[simp] theorem State.accept_cmd (k : Bool) (n : BitVec 4) : (s.accept k n).cmd = s.cmd := rfl
@[simp] theorem State.accept_status (k : Bool) (n : BitVec 4) : (s.accept k n).status = Machine.setDone false s.status := rfl
@[simp] theorem State.accept_laneS (k : Bool) (n : BitVec 4) : (s.accept k n).laneS = s.laneS := rfl
@[simp] theorem State.accept_laneT (k : Bool) (n : BitVec 4) : (s.accept k n).laneT = s.laneT := rfl
@[simp] theorem State.accept_phase (k : Bool) (n : BitVec 4) : (s.accept k n).phase = s.phase := rfl
@[simp] theorem State.accept_rnd (k : Bool) (n : BitVec 4) : (s.accept k n).rnd = s.rnd := rfl
@[simp] theorem State.accept_opk (k : Bool) (n : BitVec 4) : (s.accept k n).opk = some k := rfl
@[simp] theorem State.accept_nl (k : Bool) (n : BitVec 4) : (s.accept k n).nl = some (n.setWidth 3) := rfl
@[simp] theorem State.accept_port (k : Bool) (n : BitVec 4) : (s.accept k n).port = s.port := rfl
@[simp] theorem State.accept_replies (k : Bool) (n : BitVec 4) : (s.accept k n).replies = s.replies := rfl

/-! ### `endOperation` -/

@[simp] theorem State.endOperation_mem : s.endOperation.mem = s.mem := rfl
@[simp] theorem State.endOperation_cmd : s.endOperation.cmd = s.cmd := rfl
@[simp] theorem State.endOperation_status : s.endOperation.status = s.status := rfl
@[simp] theorem State.endOperation_laneS : s.endOperation.laneS = none := rfl
@[simp] theorem State.endOperation_laneT : s.endOperation.laneT = none := rfl
@[simp] theorem State.endOperation_phase : s.endOperation.phase = s.phase := rfl
@[simp] theorem State.endOperation_rnd : s.endOperation.rnd = none := rfl
@[simp] theorem State.endOperation_opk : s.endOperation.opk = none := rfl
@[simp] theorem State.endOperation_nl : s.endOperation.nl = none := rfl
@[simp] theorem State.endOperation_port : s.endOperation.port = s.port := rfl
@[simp] theorem State.endOperation_replies : s.endOperation.replies = s.replies := rfl

/-! ### `raiseFault` -/

@[simp] theorem State.raiseFault_mem (c : Cause) : (s.raiseFault c).mem = s.mem := rfl
@[simp] theorem State.raiseFault_cmd (c : Cause) : (s.raiseFault c).cmd = s.cmd := rfl
@[simp] theorem State.raiseFault_status (c : Cause) : (s.raiseFault c).status = setCause c.code (setFault true (Machine.setDone false s.status)) := rfl
@[simp] theorem State.raiseFault_laneS (c : Cause) : (s.raiseFault c).laneS = s.laneS := rfl
@[simp] theorem State.raiseFault_laneT (c : Cause) : (s.raiseFault c).laneT = s.laneT := rfl
@[simp] theorem State.raiseFault_phase (c : Cause) : (s.raiseFault c).phase = .faulted := rfl
@[simp] theorem State.raiseFault_rnd (c : Cause) : (s.raiseFault c).rnd = none := rfl
@[simp] theorem State.raiseFault_opk (c : Cause) : (s.raiseFault c).opk = s.opk := rfl
@[simp] theorem State.raiseFault_nl (c : Cause) : (s.raiseFault c).nl = s.nl := rfl
@[simp] theorem State.raiseFault_port (c : Cause) : (s.raiseFault c).port = s.port := rfl
@[simp] theorem State.raiseFault_replies (c : Cause) : (s.raiseFault c).replies = s.replies := rfl

/-! ### `assertReset` -/

@[simp] theorem State.assertReset_mem : s.assertReset.mem = [] := rfl
@[simp] theorem State.assertReset_cmd : s.assertReset.cmd = 0x00 := rfl
@[simp] theorem State.assertReset_status : s.assertReset.status = 0x00 := rfl
@[simp] theorem State.assertReset_laneS : s.assertReset.laneS = none := rfl
@[simp] theorem State.assertReset_laneT : s.assertReset.laneT = none := rfl
@[simp] theorem State.assertReset_phase : s.assertReset.phase = .idle := rfl
@[simp] theorem State.assertReset_rnd : s.assertReset.rnd = none := rfl
@[simp] theorem State.assertReset_opk : s.assertReset.opk = none := rfl
@[simp] theorem State.assertReset_nl : s.assertReset.nl = none := rfl
@[simp] theorem State.assertReset_port : s.assertReset.port = s.port := rfl
@[simp] theorem State.assertReset_replies : s.assertReset.replies = s.replies := rfl

/-! ### `setPort` -/

@[simp] theorem State.setPort_mem (p : List HostAccess) : (s.setPort p).mem = s.mem := rfl
@[simp] theorem State.setPort_cmd (p : List HostAccess) : (s.setPort p).cmd = s.cmd := rfl
@[simp] theorem State.setPort_status (p : List HostAccess) : (s.setPort p).status = s.status := rfl
@[simp] theorem State.setPort_laneS (p : List HostAccess) : (s.setPort p).laneS = s.laneS := rfl
@[simp] theorem State.setPort_laneT (p : List HostAccess) : (s.setPort p).laneT = s.laneT := rfl
@[simp] theorem State.setPort_phase (p : List HostAccess) : (s.setPort p).phase = s.phase := rfl
@[simp] theorem State.setPort_rnd (p : List HostAccess) : (s.setPort p).rnd = s.rnd := rfl
@[simp] theorem State.setPort_opk (p : List HostAccess) : (s.setPort p).opk = s.opk := rfl
@[simp] theorem State.setPort_nl (p : List HostAccess) : (s.setPort p).nl = s.nl := rfl
@[simp] theorem State.setPort_port (p : List HostAccess) : (s.setPort p).port = p := rfl
@[simp] theorem State.setPort_replies (p : List HostAccess) : (s.setPort p).replies = s.replies := rfl

/-! ### `reply` -/

@[simp] theorem State.reply_mem (v : Byte) : (s.reply v).mem = s.mem := rfl
@[simp] theorem State.reply_cmd (v : Byte) : (s.reply v).cmd = s.cmd := rfl
@[simp] theorem State.reply_status (v : Byte) : (s.reply v).status = s.status := rfl
@[simp] theorem State.reply_laneS (v : Byte) : (s.reply v).laneS = s.laneS := rfl
@[simp] theorem State.reply_laneT (v : Byte) : (s.reply v).laneT = s.laneT := rfl
@[simp] theorem State.reply_phase (v : Byte) : (s.reply v).phase = s.phase := rfl
@[simp] theorem State.reply_rnd (v : Byte) : (s.reply v).rnd = s.rnd := rfl
@[simp] theorem State.reply_opk (v : Byte) : (s.reply v).opk = s.opk := rfl
@[simp] theorem State.reply_nl (v : Byte) : (s.reply v).nl = s.nl := rfl
@[simp] theorem State.reply_port (v : Byte) : (s.reply v).port = s.port := rfl
@[simp] theorem State.reply_replies (v : Byte) : (s.reply v).replies = s.replies ++ [v] := rfl

end Sys2Proof.Machine
end

