-- ==== Sys2Proof/Laws/Memory.lean ====
section
/-! SUPPORT. The memory laws: a read after a write, the canonical form, and equality of canonical memories. -/

namespace Sys2Proof.Machine

/-! ### Reading after writing -/

@[simp] theorem Memory.read_nil (a : Nat) : Memory.read [] a = 0x00 := rfl

theorem Memory.read_cons_entry (b : Nat) (v : Byte) (m : Memory) (a : Nat) :
    Memory.read ((b, v) :: m) a = if a = b then v else Memory.read m a := rfl

/-- Below the first address of a well-formed list every address is unlisted. -/
theorem Memory.read_of_lt {lo a : Nat} {m : Memory} (h : Memory.wfFrom lo m = true) (ha : a < lo) :
    m.read a = 0x00 := by
  induction m generalizing lo with
  | nil => rfl
  | cons c rest ih =>
    obtain ⟨b, v⟩ := c
    simp only [Memory.wfFrom, Bool.and_eq_true, decide_eq_true_eq] at h
    rw [Memory.read_cons_entry, if_neg (by omega)]
    exact ih h.2 (by omega)

theorem Memory.read_cons (a : Nat) (v : Byte) (m : Memory) (x : Nat) (h : v = 0x00 → m.read a = 0x00) :
    (Memory.cons a v m).read x = if x = a then v else m.read x := by
  unfold Memory.cons Memory.unlisted
  split
  · next hv =>
    subst hv
    split
    · next hx => rw [hx, h rfl]
    · rfl
  · rfl

/-- A read after a write: the written byte at its address, the old byte at every other. -/
theorem Memory.read_write {m : Memory} {lo : Nat} (h : Memory.wfFrom lo m = true) (a : Nat) (v : Byte) (x : Nat) :
    (m.write a v).read x = if x = a then v else m.read x := by
  induction m generalizing lo with
  | nil => exact Memory.read_cons a v [] x (fun _ => rfl)
  | cons c rest ih =>
    obtain ⟨b, w⟩ := c
    have hw := h
    simp only [Memory.wfFrom, Bool.and_eq_true, decide_eq_true_eq] at h
    simp only [Memory.write]
    split
    · next hab =>
      refine Memory.read_cons a v _ x fun _ => ?_
      rw [Memory.read_cons_entry, if_neg (by omega)]
      exact Memory.read_of_lt h.2 (by omega)
    · split
      · next hab =>
        subst hab
        rw [Memory.read_cons a v rest x fun _ => Memory.read_of_lt h.2 (by omega), Memory.read_cons_entry]
        split <;> rfl
      · next hab =>
        rw [Memory.read_cons_entry, Memory.read_cons_entry, ih h.2]
        split
        · next hx => rw [if_neg (by omega)]
        · rfl

/-! ### The canonical form -/

theorem Memory.wfFrom_mono {lo lo' : Nat} {m : Memory} (h : Memory.wfFrom lo' m = true) (hl : lo ≤ lo') :
    Memory.wfFrom lo m = true := by
  cases m with
  | nil => rfl
  | cons c rest =>
    obtain ⟨b, v⟩ := c
    simp only [Memory.wfFrom, Bool.and_eq_true, decide_eq_true_eq] at h ⊢
    exact ⟨⟨⟨by omega, h.1.1.2⟩, h.1.2⟩, h.2⟩

theorem Memory.wfFrom_cons {lo a : Nat} {m : Memory} (h : Memory.wfFrom (a + 1) m = true) (v : Byte) (hlo : lo ≤ a)
    (ha : a < 0xA0) : Memory.wfFrom lo (Memory.cons a v m) = true := by
  unfold Memory.cons
  split
  · exact Memory.wfFrom_mono h (by omega)
  · next hv => simp only [Memory.wfFrom, Bool.and_eq_true, decide_eq_true_eq]; exact ⟨⟨⟨hlo, ha⟩, hv⟩, h⟩

theorem Memory.wfFrom_write {lo : Nat} {m : Memory} (h : Memory.wfFrom lo m = true) (a : Nat) (v : Byte) (hlo : lo ≤ a)
    (ha : a < 0xA0) : Memory.wfFrom lo (m.write a v) = true := by
  induction m generalizing lo with
  | nil => exact Memory.wfFrom_cons rfl v hlo ha
  | cons c rest ih =>
    obtain ⟨b, w⟩ := c
    simp only [Memory.write]
    have h' := h
    simp only [Memory.wfFrom, Bool.and_eq_true, decide_eq_true_eq] at h'
    split
    · refine Memory.wfFrom_cons ?_ v hlo ha
      simp only [Memory.wfFrom, Bool.and_eq_true, decide_eq_true_eq]
      exact ⟨⟨⟨by omega, h'.1.1.2⟩, h'.1.2⟩, h'.2⟩
    · split
      · next hab => subst hab; exact Memory.wfFrom_cons h'.2 v hlo ha
      · simp only [Memory.wfFrom, Bool.and_eq_true, decide_eq_true_eq]
        exact ⟨h'.1, ih h'.2 (by omega)⟩

/-- A write below `0xA0` keeps the canonical form. -/
theorem Memory.wf_write {m : Memory} (h : m.wf = true) (a : Nat) (v : Byte) (ha : a < 0xA0) :
    (m.write a v).wf = true :=
  Memory.wfFrom_write h a v (Nat.zero_le _) ha

/-- A list of writes below `0xA0` keeps the canonical form. -/
theorem Memory.wf_writeList {m : Memory} (h : m.wf = true) (a : Nat) (vs : List Byte) (ha : a + vs.length ≤ 0xA0) :
    (m.writeList a vs).wf = true := by
  induction vs generalizing m a with
  | nil => exact h
  | cons v vs ih =>
    simp only [List.length_cons] at ha
    exact ih (Memory.wf_write h a v (by omega)) (a + 1) (by omega)

/-- A read after a list of writes: the byte written there, or the old byte outside the list. -/
theorem Memory.read_writeList {m : Memory} (h : m.wf = true) (a : Nat) (vs : List Byte) (ha : a + vs.length ≤ 0xA0)
    (x : Nat) : (m.writeList a vs).read x = if a ≤ x then (vs[x - a]?).getD (m.read x) else m.read x := by
  induction vs generalizing m a with
  | nil => simp [Memory.writeList]
  | cons v vs ih =>
    simp only [List.length_cons] at ha
    rw [Memory.writeList, ih (Memory.wf_write h a v (by omega)) (a + 1) (by omega), Memory.read_write h]
    by_cases hx : x = a
    · subst hx; simp
    · by_cases hax : a + 1 ≤ x
      · obtain ⟨k, rfl⟩ : ∃ k, x = a + 1 + k := ⟨x - (a + 1), by omega⟩
        have h1 : a + 1 + k - a = k + 1 := by omega
        have h2 : a + 1 + k - (a + 1) = k := by omega
        rw [if_pos hax, h1, h2, if_neg hx, if_pos (by omega), List.getElem?_cons_succ]
      · rw [if_neg hax, if_neg hx, if_neg (by omega)]

/-- Two canonical memories that read alike everywhere are equal. -/
theorem Memory.eq_of_read_eq {lo : Nat} {m m' : Memory} (h : Memory.wfFrom lo m = true) (h' : Memory.wfFrom lo m' = true)
    (hr : ∀ a, m.read a = m'.read a) : m = m' := by
  induction m generalizing m' lo with
  | nil =>
    cases m' with
    | nil => rfl
    | cons c rest =>
      obtain ⟨b, v⟩ := c
      simp only [Memory.wfFrom, Bool.and_eq_true, decide_eq_true_eq] at h'
      have := hr b
      rw [Memory.read_cons_entry, if_pos rfl] at this
      exact absurd this.symm h'.1.2
  | cons c rest ih =>
    obtain ⟨b, v⟩ := c
    have hb := h
    simp only [Memory.wfFrom, Bool.and_eq_true, decide_eq_true_eq] at h
    cases m' with
    | nil =>
      have := hr b
      rw [Memory.read_cons_entry, if_pos rfl] at this
      exact absurd this h.1.2
    | cons c' rest' =>
      obtain ⟨b', v'⟩ := c'
      simp only [Memory.wfFrom, Bool.and_eq_true, decide_eq_true_eq] at h'
      have hbb : b = b' := by
        rcases Nat.lt_trichotomy b b' with hlt | heq | hgt
        · have := hr b
          rw [Memory.read_cons_entry, if_pos rfl, Memory.read_cons_entry, if_neg (by omega),
            Memory.read_of_lt h'.2 (by omega)] at this
          exact absurd this h.1.2
        · exact heq
        · have := hr b'
          rw [Memory.read_cons_entry, if_neg (by omega), Memory.read_of_lt h.2 (by omega), Memory.read_cons_entry,
            if_pos rfl] at this
          exact absurd this.symm h'.1.2
      subst hbb
      have hv : v = v' := by
        have := hr b
        simpa [Memory.read_cons_entry] using this
      subst hv
      rw [ih h.2 h'.2]
      intro a
      have ha := hr a
      simp only [Memory.read_cons_entry] at ha
      by_cases hab : a = b
      · subst hab; rw [Memory.read_of_lt h.2 (by omega), Memory.read_of_lt h'.2 (by omega)]
      · simpa [hab] using ha

/-- An address at or above `0xA0` is unlisted in a canonical memory. -/
theorem Memory.read_of_ge {lo a : Nat} {m : Memory} (h : Memory.wfFrom lo m = true) (ha : 0xA0 ≤ a) :
    m.read a = 0x00 := by
  induction m generalizing lo with
  | nil => rfl
  | cons c rest ih =>
    obtain ⟨b, v⟩ := c
    simp only [Memory.wfFrom, Bool.and_eq_true, decide_eq_true_eq] at h
    rw [Memory.read_cons_entry, if_neg (by omega)]
    exact ih h.2

/-! ### The buffers -/

@[simp] theorem State.stateIn_getElem (s : State) (j : Nat) (h : j < 64) : s.stateIn[j] = s.mem.read j := by
  simp [State.stateIn]

@[simp] theorem State.keyIn_getElem (s : State) (j : Nat) (h : j < 64) : s.keyIn[j] = s.mem.read (0x40 + j) := by
  simp [State.keyIn]

@[simp] theorem State.digest_getElem (s : State) (j : Nat) (h : j < 32) : s.digest[j] = s.mem.read (0x80 + j) := by
  simp [State.digest]

/-- The buffers are functions of the stored bytes alone. -/
theorem State.stateIn_congr {s t : State} (h : s.mem = t.mem) : s.stateIn = t.stateIn := by
  simp only [State.stateIn, h]

theorem State.keyIn_congr {s t : State} (h : s.mem = t.mem) : s.keyIn = t.keyIn := by
  simp only [State.keyIn, h]

theorem State.digest_congr {s t : State} (h : s.mem = t.mem) : s.digest = t.digest := by
  simp only [State.digest, h]

/-- What storing a digest leaves to read: the digest at `0x80`..`0x9F`, the old bytes elsewhere. -/
theorem State.storeDigest_read {s : State} (h : s.mem.wf = true) (d : Digest) (x : Nat) :
    (s.storeDigest d).mem.read x = if hx : 0x80 ≤ x ∧ x < 0xA0 then d[x - 0x80] else s.mem.read x := by
  rw [State.storeDigest_mem, Memory.read_writeList h _ _ (by simp)]
  by_cases hx : 0x80 ≤ x
  · by_cases hx' : x < 0xA0
    · rw [if_pos hx, dif_pos ⟨hx, hx'⟩, List.getElem?_eq_getElem (by simp; omega)]
      simp
    · rw [if_pos hx, dif_neg (by omega), List.getElem?_eq_none (by simp; omega)]
      rfl
  · rw [if_neg hx, dif_neg (by omega)]

theorem State.storeDigest_wf {s : State} (h : s.mem.wf = true) (d : Digest) : (s.storeDigest d).mem.wf = true :=
  Memory.wf_writeList h _ _ (by simp)

theorem State.storeDigest_digest {s : State} (h : s.mem.wf = true) (d : Digest) : (s.storeDigest d).digest = d := by
  ext j hj
  rw [State.digest_getElem, State.storeDigest_read h, dif_pos (by omega)]
  simp

end Sys2Proof.Machine
end

