-- ==== Sys2Proof/Laws/Ops.lean ====
section
/-! SUPPORT. What each shared operation and each micro-operation can do, said once. -/

namespace Sys2Proof.Machine

/-! ### Sequencing -/

@[simp] theorem andThen_next (f : State → Result) (s : State) : andThen f (.next s) = f s := rfl
@[simp] theorem andThen_fault (f : State → Result) (x : Fault) : andThen f (.fault x) = .fault x := rfl
@[simp] theorem andThen_refused (f : State → Result) (x : Refusal) : andThen f (.refused x) = .refused x := rfl

/-- A sequence answers a next state exactly where both parts do. -/
theorem andThen_eq_next {f : State → Result} {r : Result} {t : State} :
    andThen f r = .next t ↔ ∃ s, r = .next s ∧ f s = .next t := by
  cases r <;> simp

theorem andThen_assoc (f g : State → Result) (r : Result) :
    andThen g (andThen f r) = andThen (fun s => andThen g (f s)) r := by
  cases r <;> rfl

/-! ### Reading a working register -/

theorem withS_some {s : State} {v : Lanes} (h : s.laneS = some v) (f : Lanes → Result) : withS s f = f v := by
  simp [withS, h]

theorem withT_some {s : State} {v : Lanes} (h : s.laneT = some v) (f : Lanes → Result) : withT s f = f v := by
  simp [withT, h]

theorem withRnd_some {s : State} {v : BitVec 3} (h : s.rnd = some v) (f : BitVec 3 → Result) : withRnd s f = f v := by
  simp [withRnd, h]

theorem withOpk_some {s : State} {v : Bool} (h : s.opk = some v) (f : Bool → Result) : withOpk s f = f v := by
  simp [withOpk, h]

theorem withNl_some {s : State} {v : BitVec 3} (h : s.nl = some v) (f : BitVec 3 → Result) : withNl s f = f v := by
  simp [withNl, h]

/-- A register read goes on only where the register holds a value. -/
theorem withS_eq_next {s t : State} {f : Lanes → Result} (h : withS s f = .next t) :
    ∃ v, s.laneS = some v ∧ f v = .next t := by
  unfold withS at h; split at h
  · exact ⟨_, ‹_›, h⟩
  · cases h

theorem withT_eq_next {s t : State} {f : Lanes → Result} (h : withT s f = .next t) :
    ∃ v, s.laneT = some v ∧ f v = .next t := by
  unfold withT at h; split at h
  · exact ⟨_, ‹_›, h⟩
  · cases h

theorem withRnd_eq_next {s t : State} {f : BitVec 3 → Result} (h : withRnd s f = .next t) :
    ∃ v, s.rnd = some v ∧ f v = .next t := by
  unfold withRnd at h; split at h
  · exact ⟨_, ‹_›, h⟩
  · cases h

theorem withOpk_eq_next {s t : State} {f : Bool → Result} (h : withOpk s f = .next t) :
    ∃ v, s.opk = some v ∧ f v = .next t := by
  unfold withOpk at h; split at h
  · exact ⟨_, ‹_›, h⟩
  · cases h

theorem withNl_eq_next {s t : State} {f : BitVec 3 → Result} (h : withNl s f = .next t) :
    ∃ v, s.nl = some v ∧ f v = .next t := by
  unfold withNl at h; split at h
  · exact ⟨_, ‹_›, h⟩
  · cases h

/-! ### The micro-operations: if one answers a next state, then so -/

theorem load_eq_next {s t : State} (h : load s = .next t) : t = s.setS (loadLanes s.stateIn) :=
  (Host.Outcome.next.inj h).symm

theorem keyXor_eq_next {s t : State} (h : keyXor s = .next t) :
    ∃ S, s.laneS = some S ∧ t = s.setS (xorLanes S (loadLanes s.keyIn)) := by
  obtain ⟨S, hS, ht⟩ := withS_eq_next h
  exact ⟨S, hS, (Host.Outcome.next.inj ht).symm⟩

theorem save_eq_next {s t : State} (h : save s = .next t) : ∃ S, s.laneS = some S ∧ t = s.setT S := by
  obtain ⟨S, hS, ht⟩ := withS_eq_next h
  exact ⟨S, hS, (Host.Outcome.next.inj ht).symm⟩

theorem mix_eq_next {s t : State} (h : mix s = .next t) : ∃ S, s.laneS = some S ∧ t = s.setS (mixLanes S) := by
  obtain ⟨S, hS, ht⟩ := withS_eq_next h
  exact ⟨S, hS, (Host.Outcome.next.inj ht).symm⟩

theorem aes2_eq_next {s t : State} (h : aes2 s = .next t) :
    ∃ r S S', s.rnd = some r ∧ s.laneS = some S ∧ aes2Lanes r S = .ok S' ∧ t = s.setS S' := by
  obtain ⟨r, hr, h⟩ := withRnd_eq_next h
  obtain ⟨S, hS, h⟩ := withS_eq_next h
  split at h
  · next S' hS' => exact ⟨r, S, S', hr, hS, hS', (Host.Outcome.next.inj h).symm⟩
  · cases h

theorem ffwd_eq_next {s t : State} (h : ffwd s = .next t) :
    ∃ S T, s.laneS = some S ∧ s.laneT = some T ∧ t = s.setS (xorLanes S T) := by
  obtain ⟨S, hS, h⟩ := withS_eq_next h
  obtain ⟨T, hT, h⟩ := withT_eq_next h
  exact ⟨S, T, hS, hT, (Host.Outcome.next.inj h).symm⟩

theorem trunc_eq_next {s t : State} (h : trunc s = .next t) :
    ∃ S, s.laneS = some S ∧ t = ((s.storeDigest (truncate S)).setDone true).setPc .idle none := by
  obtain ⟨S, hS, ht⟩ := withS_eq_next h
  exact ⟨S, hS, (Host.Outcome.next.inj ht).symm⟩

/-! ### The micro-operations: where the registers they read hold values -/

theorem keyXor_of_some {s : State} {S : Lanes} (h : s.laneS = some S) :
    keyXor s = .next (s.setS (xorLanes S (loadLanes s.keyIn))) := by
  rw [keyXor, withS_some h]

theorem save_of_some {s : State} {S : Lanes} (h : s.laneS = some S) : save s = .next (s.setT S) := by
  rw [save, withS_some h]

theorem aes2_of_some {s : State} {S : Lanes} {r : BitVec 3} (h : s.laneS = some S) (hr : s.rnd = some r)
    (h5 : r.toNat < 5) : aes2 s = .next (s.setS (aes2f S ⟨r.toNat, h5⟩)) := by
  rw [aes2, withRnd_some hr, withS_some h, aes2Lanes_eq r h5]

theorem mix_of_some {s : State} {S : Lanes} (h : s.laneS = some S) : mix s = .next (s.setS (mixLanes S)) := by
  rw [mix, withS_some h]

theorem ffwd_of_some {s : State} {S T : Lanes} (h : s.laneS = some S) (h' : s.laneT = some T) :
    ffwd s = .next (s.setS (xorLanes S T)) := by
  rw [ffwd, withS_some h, withT_some h']

theorem trunc_of_some {s : State} {S : Lanes} (h : s.laneS = some S) :
    trunc s = .next (((s.storeDigest (truncate S)).setDone true).setPc .idle none) := by
  rw [trunc, withS_some h]

/-! ### STATUS, as bits -/

@[simp] theorem setDone_setDone (b c : Bool) (st : BitVec 8) : setDone b (setDone c st) = setDone b st := by
  revert st b c; decide

theorem statusDone_setDone (b : Bool) (st : BitVec 8) : statusDone (setDone b st) = b := by
  revert st b; decide

theorem statusFault_setDone (b : Bool) (st : BitVec 8) : statusFault (setDone b st) = statusFault st := by
  revert st b; decide

theorem statusReserved_setDone (b : Bool) (st : BitVec 8) : statusReserved (setDone b st) = statusReserved st := by
  revert st b; decide

theorem statusCause_setDone (b : Bool) (st : BitVec 8) : statusCause (setDone b st) = statusCause st := by
  revert st b; decide

end Sys2Proof.Machine
end

