-- ==== Sys2Proof/Laws/PerInstr.lean ====
section
/-! SUPPORT. The per-instruction family `MatchesTableRow`: the encoding of each command lies in its row of the opcode
table (R51). -/

namespace Sys2Proof.Laws.MatchesTableRow

/-- The `match` column of a command's row, under the mask `0xF0`. -/
def rowMatch : Instr → Byte
  | .h512 _ => 0x10
  | .h512k _ => 0x20

/-- The `legal_bytes` column of a command's row. -/
def rowLegal : Instr → List Byte
  | .h512 _ => [0x10, 0x11, 0x12, 0x13, 0x14, 0x15]
  | .h512k _ => [0x20, 0x21, 0x22, 0x23, 0x24, 0x25]

/-- The encoding matches its row, and it is one of the row's legal bytes exactly where the command is well formed. -/
def Statement (i : Instr) : Prop :=
  (encode i &&& 0xF0) = rowMatch i ∧ (i.wellFormed = true ↔ encode i ∈ rowLegal i)

theorem h512 (n : BitVec 4) : Statement (.h512 n) := by
  revert n; unfold Statement; decide

theorem h512k (n : BitVec 4) : Statement (.h512k n) := by
  revert n; unfold Statement; decide

end Sys2Proof.Laws.MatchesTableRow
end

