-- ==== Sys2Proof/Laws/Rounds.lean ====
section
/-! SUPPORT. What a round, the loop of rounds and the sequencer's choice of the next round do. -/

namespace Sys2Proof.Machine

/-- A round 0..4 applies the AES step and the mix to the working lanes. -/
theorem aesMix_of_some {s : State} {S : Lanes} (h : s.laneS = some S) (r : Nat) (hr : r < 5) :
    aesMix r s = .next ((s.setPc .mix (some (BitVec.ofNat 3 r))).setS (mixLanes (aes2f S ⟨r, hr⟩))) := by
  have hr3 : (BitVec.ofNat 3 r).toNat = r := by simp; omega
  unfold aesMix
  rw [aes2_of_some (S := S) (r := BitVec.ofNat 3 r) (by simpa using h) rfl (by omega), andThen_next,
    mix_of_some (S := aes2f S ⟨r, hr⟩) (by simp [hr3])]
  congr 1

/-- The loop of `n` rounds, `n` in 0..5, changes the working lanes and the sequencer position only. -/
theorem roundLoop_of_some {s : State} {S : Lanes} (h : s.laneS = some S) (n : Nat) (hn : n ≤ Config.maxRounds) :
    ∃ p r, roundLoop n s = .next ((s.setPc p r).setS (roundsf n hn S)) := by
  induction n with
  | zero =>
    refine ⟨s.phase, s.rnd, ?_⟩
    rw [roundLoop]
    congr 1
    ext1 <;> simp [roundsf, h]
  | succ n ih =>
    obtain ⟨p, r, ih⟩ := ih (Nat.le_of_succ_le hn)
    refine ⟨.mix, some (BitVec.ofNat 3 n), ?_⟩
    rw [roundLoop, ih, andThen_next, aesMix_of_some (S := roundsf n (Nat.le_of_succ_le hn) S) rfl n hn]
    congr 1

/-- A round count that a command accepts keeps its value in the 3 bits of `NL`. -/
theorem toNat_setWidth_three {n : BitVec 4} (h : n.toNat ≤ Config.maxRounds) : (n.setWidth 3).toNat = n.toNat := by
  simp only [Config.maxRounds] at h
  simp
  omega

/-! ### The sequencer -/

theorem microRun_add (a b : Nat) (s : State) : microRun (a + b) s = andThen (microRun b) (microRun a s) := by
  induction a generalizing s with
  | zero => rw [Nat.zero_add, microRun, andThen_next]
  | succ a ih =>
    rw [Nat.add_right_comm, microRun, microRun, andThen_assoc]
    congr 1
    funext t
    exact ih t

theorem nextRound_of_some {s : State} {n : BitVec 3} (h : s.nl = some n) (r : Nat) :
    nextRound r s =
      if r < n.toNat then .next (s.setPc .aes2 (some (BitVec.ofNat 3 r))) else .next (s.setPc .ffwd none) := by
  rw [nextRound, withNl_some h]

end Sys2Proof.Machine
end

