-- ==== Sys2Proof/Laws/Run.lean ====
section
/-! SUPPORT. Runs of many steps: how they split, and that they are the host's runs. -/

namespace Sys2Proof.Machine

theorem stepN_of_step {s t : State} (h : step s = .next t) (k : Nat) : stepN (k + 1) s = stepN k t := by
  rw [stepN, h, andThen_next]

theorem stepN_add (a b : Nat) (s : State) : stepN (a + b) s = andThen (stepN b) (stepN a s) := by
  induction a generalizing s with
  | zero => rw [Nat.zero_add, stepN, andThen_next]
  | succ a ih =>
    rw [Nat.add_right_comm, stepN, stepN, andThen_assoc]
    congr 1
    funext t
    exact ih t

/-- The host's run of this machine is `stepN`. -/
theorem stepN_eq_run (k : Nat) (s : State) : stepN k s = Host.Core.run Sys2Proof.core k s := by
  induction k generalizing s with
  | zero => rfl
  | succ k ih =>
    refine Eq.trans ?_ (Host.Core.run.eq_2 Sys2Proof.core s k).symm
    rw [stepN]
    change andThen (stepN k) (Sys2Proof.core.step s) = _
    cases Sys2Proof.core.step s with
    | next t => exact ih t
    | fault x => rfl
    | refused x => rfl

end Sys2Proof.Machine
end

