-- ==== Sys2Proof/Laws/Step.lean ====
section
/-! SUPPORT. What a submission, a host write and a step can do, said once. -/

namespace Sys2Proof.Machine

theorem submit_of_ok {b : Byte} {i : Instr} (h : decode b = .ok i) (s : State) : submit b s = exec i s := by
  rw [submit, h]

theorem submit_of_error {b : Byte} {op : BitVec 4} (h : decode b = .error (.illegalOp op)) (s : State) :
    submit b s = .next (s.raiseFault .illegalOp) := by
  rw [submit, h]

/-- The cases of a step that answers a next state: no access pending, a read, reset, a stored byte, an ignored write, a
submitted command. -/
theorem step_eq_next {s t : State} (h : step s = .next t) :
    (s.port = [] ∧ t = s) ∨
    (∃ a rest, s.port = .read a :: rest ∧ t = (s.setPort rest).reply (memRead (s.setPort rest) a)) ∨
    (∃ rest, s.port = .reset :: rest ∧ t = (s.setPort rest).assertReset) ∨
    (∃ a v rest, s.port = .write a v :: rest ∧ a.toNat ≤ 0x7F ∧ t = (s.setPort rest).storeByte a.toNat v) ∨
    (∃ a v rest, s.port = .write a v :: rest ∧ ¬ a.toNat ≤ 0x7F ∧ (a = 0xA0 → statusFault s.status = true) ∧
      t = s.setPort rest) ∨
    (∃ v rest, s.port = .write 0xA0 v :: rest ∧ statusFault s.status = false ∧
      submit v ((s.setPort rest).setCmd v) = .next t) := by
  unfold step hostStep at h
  split at h
  · next hp => exact .inl ⟨hp, (Host.Outcome.next.inj h).symm⟩
  · next a rest hp =>
    rw [hp]
    cases a with
    | read a => exact .inr (.inl ⟨a, rest, rfl, (Host.Outcome.next.inj h).symm⟩)
    | reset => exact .inr (.inr (.inl ⟨rest, rfl, (Host.Outcome.next.inj h).symm⟩))
    | write a v =>
      simp only [hostAccess, memWrite] at h
      split at h
      · next ha => exact .inr (.inr (.inr (.inl ⟨a, v, rest, rfl, ha, (Host.Outcome.next.inj h).symm⟩)))
      · next ha =>
        split at h
        · next he =>
          subst he
          split at h
          · next hf =>
            exact .inr (.inr (.inr (.inr (.inl ⟨_, v, rest, rfl, ha, fun _ => hf, (Host.Outcome.next.inj h).symm⟩))))
          · next hf => exact .inr (.inr (.inr (.inr (.inr ⟨v, rest, rfl, by simpa using hf, h⟩))))
        · next he =>
          exact .inr (.inr (.inr (.inr (.inl
            ⟨_, v, rest, rfl, ha, fun e => absurd e he, (Host.Outcome.next.inj h).symm⟩))))

end Sys2Proof.Machine
end

