-- ==== Sys2Proof/Tests/Slice0.lean ====
section
/-! SUPPORT. Tests: expected values are the spec's own (95_test_vectors.md, by section). Then one witness per statement
that has hypotheses: a concrete state and operands that meet all of them together. -/

set_option maxRecDepth 100000

namespace Sys2Proof.Tests

open Sys2Proof Sys2Proof.Machine

/-! ### Helpers -/

/-- The 16 bytes of a hex numeral read from left to right, as a lane. -/
def laneHex (w : Nat) : Lane := Vector.ofFn fun k => BitVec.ofNat 8 (w >>> (8 * (15 - k.val)))

/-- The 32 bytes of a hex numeral read from left to right, as a digest. -/
def digestHex (w : Nat) : Digest := Vector.ofFn fun k => BitVec.ofNat 8 (w >>> (8 * (31 - k.val)))

/-- The input `X` of 95_test_vectors.md: byte `j` is `j`. -/
def X : Block := Vector.ofFn fun j => BitVec.ofNat 8 j.val

/-- Lanes of `X`. -/
def lanesX : Lanes := loadLanes X

/-- After reset and `LDSTATE X`; the zero byte at address 0 is unlisted. -/
def loaded : State :=
  { State.reset with mem := (List.range 63).map fun j => (j + 1, BitVec.ofNat 8 (j + 1)) }

/-- `loaded`, then `LDKEY` of the bytes `0x80 + j`. -/
def keyed : State :=
  { State.reset with mem := loaded.mem ++ (List.range 64).map fun j => (0x40 + j, BitVec.ofNat 8 (0x80 + j)) }

/-- After reset and the write of `0x16` to `CMD`. -/
def faulted : State := { State.reset with cmd := 0x16, status := 0x12, phase := .faulted }

/-- After a command that ended, with a digest of one nonzero byte. -/
def ended : State := { State.reset with mem := [(0x9F, 0x07)], cmd := 0x15, status := 0x01 }

/-- In the middle of an operation: every working register holds a value, `RND` is `r`. -/
def busy (r : BitVec 3) : State :=
  { loaded with laneS := some lanesX, laneT := some lanesX, phase := .aes2, rnd := some r, opk := some false,
                nl := some 5 }

/-- The accesses `p` are pending in `s`. -/
def pending (s : State) (p : List HostAccess) : State := { s with port := p }

/-- What `f` says of the next state of an answer. -/
def after {α : Type} (r : Result) (f : State → α) : Option α :=
  match r with
  | .next t => some (f t)
  | _ => none

/-- An answer is a next state that `p` holds of. -/
def nextWith (r : Result) (p : State → Bool) : Bool :=
  match r with
  | .next t => p t
  | _ => false

theorem exists_of_nextWith {r : Result} {p : State → Bool} (h : nextWith r p = true) :
    ∃ t, r = .next t ∧ p t = true := by
  cases r with
  | next t => exact ⟨t, rfl, h⟩
  | fault x => cases h
  | refused x => cases h

/-! ### Well-formedness and decoding -/

/-- R53: the check refuses a round count above 5, in both commands. -/
theorem test_wellFormed_refuses_six_and_fifteen :
    (Instr.h512 6).wellFormed = false ∧ (Instr.h512 15).wellFormed = false ∧
    (Instr.h512k 6).wellFormed = false ∧ (Instr.h512k 15).wellFormed = false := by decide

theorem test_wellFormed_accepts_zero_and_five :
    (Instr.h512 0).wellFormed = true ∧ (Instr.h512 5).wellFormed = true ∧
    (Instr.h512k 0).wellFormed = true ∧ (Instr.h512k 5).wellFormed = true := by decide

/-- R54, the column of bits. -/
theorem test_decode_h512_bits : decode 0b00010101 = .ok (.h512 5) ∧ decode 0b00010010 = .ok (.h512 2) := by decide

theorem test_decode_h512k_bits : decode 0b00100101 = .ok (.h512k 5) ∧ decode 0b00100001 = .ok (.h512k 1) := by decide

/-- Section 3.8: reserved operation codes are rejected by name. -/
theorem test_decode_reserved :
    decode 0x00 = .error (.illegalOp 0x0) ∧ decode 0x05 = .error (.illegalOp 0x0) ∧
    decode 0x36 = .error (.illegalOp 0x3) ∧ decode 0xFF = .error (.illegalOp 0xF) := by decide

theorem test_decodeTableWord :
    decodeTableWord 8 0x15 = some (.h512 5) ∧ decodeTableWord 8 0x26 = some (.h512k 6) ∧
    decodeTableWord 8 0x30 = none := by decide

/-! ### The commands -/

/-- Sections 2.6 and P1: the known-answer digest, with `STATUS` = `0x01` and `CMD` = `0x15`. -/
theorem test_h512_known_answer :
    after (step (loaded.withFetchWord 8 0x15)) (fun t => (t.digest, t.status, t.cmd, t.phase)) =
      some (digestHex 0xbe7f723b4e80a99813b292287f306f625a6d57331cae5f34dd9277b0945be2aa, 0x01, 0x15, .idle) := by
  decide +kernel

/-- Section 3.8, row `0x16`. -/
theorem test_h512_six_rounds_faults :
    after (step (loaded.withFetchWord 8 0x16)) (fun t => (t.digest, t.status, t.cmd, t.phase)) =
      some (digestHex 0, 0x12, 0x16, .faulted) := by
  decide +kernel

/-- Section 3.7, row `H512K 1`. -/
theorem test_h512k_one_round :
    after (step (keyed.withFetchWord 8 0x21)) (fun t => (t.digest, t.status, t.cmd, t.phase)) =
      some (digestHex 0x5c2663145f520a2224a787a2d10de87017c16077e7fe5ca4e95f7175c908b9d8, 0x01, 0x21, .idle) := by
  decide +kernel

/-- P3: `H512K` with `N` = 6 is refused and the digest stays. -/
theorem test_h512k_six_rounds_faults :
    after (step (ended.withFetchWord 8 0x26)) (fun t => (t.digest, t.status, t.cmd, t.phase)) =
      some (digestHex 7, 0x12, 0x26, .faulted) := by
  decide +kernel

/-- Section 3.8, row `0x36`: the operation code is tested first. -/
theorem test_illegal_op_before_rounds_range :
    after (step (pending loaded [.write 0xA0 0x36])) (fun t => (t.status, t.cmd, t.phase)) =
      some (0x22, 0x36, .faulted) := by decide +kernel

/-- P3: a command in the faulted state is ignored. -/
theorem test_faulted_ignores_command :
    after (step (pending faulted [.write 0xA0 0x15])) (fun t => (t.status, t.cmd, t.phase)) =
      some (0x12, 0x16, .faulted) := by decide

/-! ### The window (section 3.10) -/

theorem test_window_reads :
    memRead State.reset 0x00 = 0x00 ∧ memRead State.reset 0xFF = 0x00 ∧ memRead State.reset 0xA0 = 0x00 ∧
    memRead keyed 0x3F = 0x3F ∧ memRead keyed 0x40 = 0x80 ∧ memRead ended 0x9F = 0x07 ∧
    memRead faulted 0xA0 = 0x16 ∧ memRead faulted 0xA1 = 0x12 ∧ memRead faulted 0xA2 = 0x00 := by decide

theorem test_window_writes :
    after (memWrite State.reset 0x3F 0xAB) (fun t => (t.mem, t.cmd, t.status)) = some ([(0x3F, 0xAB)], 0x00, 0x00) ∧
    after (memWrite State.reset 0x40 0x11) (fun t => (t.mem, t.cmd, t.status)) = some ([(0x40, 0x11)], 0x00, 0x00) ∧
    memWrite State.reset 0x80 0x55 = .next State.reset ∧ memWrite State.reset 0xA1 0xFF = .next State.reset ∧
    memWrite State.reset 0xA2 0x77 = .next State.reset := ⟨by decide, by decide, rfl, rfl, rfl⟩

/-- R21: writing the reset value back leaves the reset memory. -/
theorem test_write_zero_removes_entry :
    after (memWrite ended 0x3F 0x00) (·.mem) = some [(0x9F, 0x07)] ∧
    ((Memory.write [] 0x20 0x05).write 0x20 0x00) = [] := by decide

/-! ### The primitives -/

/-- R78 and section 2.1: the AES standard's worked round. -/
theorem test_aes_round :
    aesRnd (laneHex 0x193de3bea0f4e22b9ac68d2ae9f84808) (laneHex 0xa0fafe1788542cb123a339392a6c7605) =
      laneHex 0xa49c7ff2689f352b6b5bea43026a5049 := by decide

/-- R76: column `db 13 53 45`; R74 and R75 on the lane `00..0f`. -/
theorem test_aes_parts :
    mixColumn 0xdb 0x13 0x53 0x45 = #v[0x8e, 0x4d, 0xa1, 0xbc] ∧
    subBytes lanesX[0] = laneHex 0x637c777bf26b6fc53001672bfed7ab76 ∧
    shiftRows lanesX[0] = laneHex 0x00050a0f04090e03080d02070c01060b := by decide

/-- Section 3.2: entries at the addresses 1, 21, 38 and 39. -/
theorem test_rom_entries :
    romRead 1 = .ok (laneHex 0x447039be1ccdee798b447248cbb0cfcb) ∧
    romRead 21 = .ok (laneHex 0xb11222cbe38de4839ca0ebff686260bb) ∧
    romRead 38 = .ok (laneHex 0xdeafbaff1859ce433854e5cb4152f626) ∧
    romRead 39 = .ok (laneHex 0xa19dc5e9fdbdd64a8882280203cc6a75) := by decide

/-- Section 3.3, MIX alone on `X`. -/
theorem test_mix :
    mixLanes lanesX = #v[laneHex 0x0c0d0e0f2c2d2e2f1c1d1e1f3c3d3e3f, laneHex 0x20212223000102033031323310111213,
      laneHex 0x24252627040506073435363714151617, laneHex 0x08090a0b28292a2b18191a1b38393a3b] := by decide

/-- Section 3.4, TRUNC on `X`. -/
theorem test_truncate :
    truncate lanesX = digestHex 0x08090a0b0c0d0e0f18191a1b1c1d1e1f20212223242526273031323334353637 := by decide

/-! ### Witnesses: the hypotheses of each statement hold together somewhere -/

theorem witness_DecodeEncodeAgree : decode 0x10 = .ok (.h512 0) ∧ decode 0x2F = .ok (.h512k 15) := by decide

theorem witness_SubmitFaultsOnEveryIllegalByte :
    (∀ b ∈ [0x16, 0x1F, 0x26, 0x2F], ((0x16 : Nat) ≤ (b : Byte).toNat ∧ b.toNat ≤ 0x1F) ∨ (0x26 ≤ b.toNat ∧ b.toNat ≤ 0x2F)) ∧
    (∀ b ∈ [0x00, 0x0F, 0x30, 0xFF], (b : Byte).toNat ≤ 0x0F ∨ 0x30 ≤ b.toNat) := by decide

theorem witness_StepRunsDecodedCommand :
    (pending loaded [.write 0xA0 0x25, .read 0xA1]).port = .write 0xA0 0x25 :: [.read 0xA1] ∧
    statusFault loaded.status = false ∧ decode 0x25 = .ok (.h512k 5) := by decide

theorem witness_StepRunsFetchedWord :
    statusFault loaded.status = false ∧ decodeTableWord 8 0x15 = some (.h512 5) := by decide

theorem witness_ReservedOperationCodeRaisesIllegalOp :
    ∀ v ∈ [0x00, 0x0F, 0x30, 0xFF], (pending ended [.write 0xA0 v]).port = .write 0xA0 v :: [] ∧
      statusFault ended.status = false ∧ ((v : Byte).toNat ≤ 0x0F ∨ 0x30 ≤ v.toNat) := by decide

/-- One address at each end of each clause. -/
theorem witness_HostReadReturnsTheMappedByte :
    (∀ a ∈ [0x00, 0x3F, 0x40, 0x7F, 0x80, 0x9F, 0xA0, 0xA1, 0xA2, 0xFF],
      (pending keyed [.read a]).port = .read a :: []) ∧
    (0x00 : BitVec 8).toNat = 0x00 + (0 : Fin 64).val ∧ (0x3F : BitVec 8).toNat = 0x00 + (63 : Fin 64).val ∧
    (0x40 : BitVec 8).toNat = 0x40 + (0 : Fin 64).val ∧ (0x7F : BitVec 8).toNat = 0x40 + (63 : Fin 64).val ∧
    (0x80 : BitVec 8).toNat = 0x80 + (0 : Fin 32).val ∧ (0x9F : BitVec 8).toNat = 0x80 + (31 : Fin 32).val ∧
    (0xA2 ≤ (0xA2 : BitVec 8).toNat) ∧ 0xA2 ≤ (0xFF : BitVec 8).toNat := by decide

/-- One address at each end of each clause. -/
theorem witness_HostWriteStoresOrSubmitsOrIsIgnored :
    keyed.mem.wf = true ∧
    (∀ a ∈ [0x00, 0x7F, 0x80, 0x9F, 0xA0, 0xA1, 0xFF], (pending keyed [.write a 0x15]).port = .write a 0x15 :: []) ∧
    (0x00 : BitVec 8).toNat ≤ 0x7F ∧ (0x7F : BitVec 8).toNat ≤ 0x7F ∧
    (0x80 ≤ (0x80 : BitVec 8).toNat ∧ (0x80 : BitVec 8) ≠ 0xA0) ∧
    (0x80 ≤ (0x9F : BitVec 8).toNat ∧ (0x9F : BitVec 8) ≠ 0xA0) ∧
    (0x80 ≤ (0xA1 : BitVec 8).toNat ∧ (0xA1 : BitVec 8) ≠ 0xA0) ∧
    (0x80 ≤ (0xFF : BitVec 8).toNat ∧ (0xFF : BitVec 8) ≠ 0xA0) := by decide

theorem witness_ResetLeavesTheResetState :
    (pending (busy 3) [.reset, .read 0x00]).port = .reset :: [.read 0x00] := rfl

theorem witness_StepWithoutAccessKeepsTheState : ended.port = [] := rfl

theorem witness_RoundCountAboveFiveRaisesRoundsRange :
    6 ≤ (6 : BitVec 4).toNat ∧ 6 ≤ (15 : BitVec 4).toNat ∧ (loaded.status = 0x00 ∨ loaded.status = 0x01) ∧
    (ended.status = 0x00 ∨ ended.status = 0x01) := by decide

/-- One access for each clause, at the ends of the range of addresses. -/
theorem witness_FaultStaysUntilReset :
    faulted.mem.wf = true ∧ statusFault faulted.status = true ∧
    (∀ a ∈ [.write 0xA0 0x15, .write 0x00 0xEE, .write 0x7F 0xEE, .read 0x9F, .write 0xFF 0x01, .reset],
      (pending faulted [a]).port = a :: []) ∧
    (0x00 : BitVec 8).toNat ≤ 0x7F ∧ (0x7F : BitVec 8).toNat ≤ 0x7F ∧ HostAccess.write 0xFF 0x01 ≠ .reset ∧
    ∃ t, step (pending faulted [.write 0xFF 0x01]) = .next t :=
  ⟨rfl, rfl, by decide, by decide, by decide, by decide, _, rfl⟩

theorem witness_H512WritesHaraka512OfTheInput :
    (0 : BitVec 4).toNat ≤ Config.maxRounds ∧ (5 : BitVec 4).toNat ≤ Config.maxRounds ∧ keyed.mem.wf = true ∧
    (keyed.status = 0x00 ∨ keyed.status = 0x01) := by decide

theorem witness_H512KWritesHaraka512OfTheKeyedInput :
    (0 : BitVec 4).toNat ≤ Config.maxRounds ∧ (5 : BitVec 4).toNat ≤ Config.maxRounds ∧ keyed.mem.wf = true ∧
    (ended.status = 0x00 ∨ ended.status = 0x01) := by decide

/-- Both commands answer a next state for `N` = 0, and `H512K 6`, which is not well formed, does. -/
theorem witness_CommandsChangeNoInputByte :
    keyed.mem.wf = true ∧ (∃ t, exec (.h512 0) keyed = .next t) ∧ (∃ t, exec (.h512k 0) keyed = .next t) ∧
    (∃ t, exec (.h512k 6) keyed = .next t) ∧ (Instr.h512k 6).wellFormed = false := by
  refine ⟨by decide, ?_, ?_, ⟨_, rfl⟩, by decide⟩
  · exact (exists_of_nextWith (p := fun _ => true) (by decide +kernel)).imp fun _ h => h.1
  · exact (exists_of_nextWith (p := fun _ => true) (by decide +kernel)).imp fun _ h => h.1

theorem witness_CommandWriteFinishesOrFaults :
    (∀ v ∈ [0x15, 0x16, 0x30], (pending ended [.write 0xA0 v]).Inv ∧ statusFault ended.status = false ∧
      (pending ended [.write 0xA0 v]).port = .write 0xA0 v :: []) := by decide +kernel

/-- The two states differ in `KEY_IN`. -/
theorem witness_H512DigestDependsOnStateInOnly :
    (0 : BitVec 4).toNat ≤ Config.maxRounds ∧ (5 : BitVec 4).toNat ≤ Config.maxRounds ∧ loaded.mem.wf = true ∧
    keyed.mem.wf = true ∧ loaded.stateIn = keyed.stateIn ∧ loaded.keyIn ≠ keyed.keyIn := by decide +kernel

/-- `ended` with `STATE_IN[0]` = `0x09`, and with `KEY_IN[0]` = `0x09` in its place: the exclusive-ors agree, and state
and key are swapped. -/
theorem witness_H512KDigestDependsOnTheExclusiveOrOnly :
    let s : State := { ended with mem := [(0x00, 0x09)] }
    let s' : State := { ended with mem := [(0x40, 0x09)] }
    (0 : BitVec 4).toNat ≤ Config.maxRounds ∧ (5 : BitVec 4).toNat ≤ Config.maxRounds ∧ s.mem.wf = true ∧
    s'.mem.wf = true ∧ xorBlock s.stateIn s.keyIn = xorBlock s'.stateIn s'.keyIn ∧ s'.stateIn = s.keyIn ∧
    s'.keyIn = s.stateIn := by decide +kernel

theorem witness_ZeroKeyGivesTheUnkeyedOutcome : loaded.keyIn = Vector.replicate 64 0x00 := by decide +kernel

theorem witness_ZeroRoundsWriteAZeroDigest : ended.mem.wf = true ∧ ended.digest ≠ Vector.replicate 32 0x00 := by
  decide +kernel

theorem witness_RepeatedCommandLeavesTheSameState :
    keyed.mem.wf = true ∧ (∃ t, exec (.h512 0) keyed = .next t) ∧ ∃ t, exec (.h512k 0) keyed = .next t := by
  refine ⟨by decide, ?_, ?_⟩
  · exact (exists_of_nextWith (p := fun _ => true) (by decide +kernel)).imp fun _ h => h.1
  · exact (exists_of_nextWith (p := fun _ => true) (by decide +kernel)).imp fun _ h => h.1

theorem witness_FeedForwardTargetsTheKeyedState : 5 ≤ Config.maxRounds ∧ 0 < 32 ∧ 31 < 32 := by decide

theorem witness_KeyXorAddsTheKey : (busy 0).laneS = some lanesX := rfl

theorem witness_SaveCopiesTheWorkingLanes : (busy 0).laneS = some lanesX := rfl

theorem witness_FeedForwardAddsTheSavedLanes : (busy 0).laneS = some lanesX ∧ (busy 0).laneT = some lanesX := ⟨rfl, rfl⟩

theorem witness_Aes2AppliesTwoRoundsToEachLane :
    (busy 0).laneS = some lanesX ∧ (busy 0).rnd = some 0 ∧ (0 : BitVec 3).toNat ≤ 4 ∧
    (busy 4).laneS = some lanesX ∧ (busy 4).rnd = some 4 ∧ (4 : BitVec 3).toNat ≤ 4 :=
  ⟨rfl, rfl, by decide, rfl, rfl, by decide⟩

theorem witness_MixMovesWordsByTheTable : (busy 0).laneS = some lanesX := rfl

theorem witness_TruncWritesTheSelectedBytes : (busy 0).mem.wf = true ∧ (busy 0).laneS = some lanesX := ⟨by decide, rfl⟩

/-- One state for each clause; `RND` = 5 and 7 for the last. -/
theorem witness_ReadingNoValueIsAModelError :
    State.reset.laneS = none ∧ State.reset.rnd = none ∧ State.reset.opk = none ∧ State.reset.nl = none ∧
    { busy 0 with laneS := none }.rnd = some 0 ∧ { busy 0 with laneS := none }.laneS = none ∧
    { busy 0 with laneT := none }.laneS = some lanesX ∧ { busy 0 with laneT := none }.laneT = none ∧
    { busy 0 with phase := .mix, rnd := none }.phase = .mix ∧
    { busy 0 with phase := .mix, rnd := none }.laneS = some lanesX ∧
    { busy 0 with phase := .mix, rnd := none }.rnd = none ∧
    (busy 5).laneS = some lanesX ∧ (busy 5).rnd = some 5 ∧ 5 ≤ (5 : BitVec 3).toNat ∧
    (busy 7).laneS = some lanesX ∧ (busy 7).rnd = some 7 ∧ 5 ≤ (7 : BitVec 3).toNat :=
  ⟨rfl, rfl, rfl, rfl, rfl, rfl, rfl, rfl, rfl, rfl, rfl, rfl, rfl, by decide, rfl, rfl, by decide⟩

/-- The first and the last position of the shortest and of the longest operation. -/
theorem witness_SequencerTakesThePositionsInOrder :
    (0 : BitVec 4).toNat ≤ Config.maxRounds ∧ 4 < (positions false (0 : BitVec 4).toNat).length ∧
    (5 : BitVec 4).toNat ≤ Config.maxRounds ∧ 15 < (positions true (5 : BitVec 4).toNat).length := by decide

theorem witness_SequencerRunIsTheCommand :
    (0 : BitVec 4).toNat ≤ Config.maxRounds ∧ (5 : BitVec 4).toNat ≤ Config.maxRounds := by decide

/-- At the start of an operation, and just before its TRUNC. -/
theorem witness_ResetDuringAnOperationAbandonsIt :
    (0 : BitVec 4).toNat ≤ Config.maxRounds ∧ 0 < microCount true (0 : BitVec 4).toNat ∧
    4 < microCount true (0 : BitVec 4).toNat ∧ (∃ t, microRun 0 (ended.start true 0) = .next t) ∧
    ∃ t, microRun 4 (ended.start true 0) = .next t := by
  refine ⟨by decide, by decide, by decide, ⟨_, rfl⟩, ?_⟩
  exact (exists_of_nextWith (p := fun _ => true) (by decide +kernel)).imp fun _ h => h.1

theorem witness_SboxTableIsItsDefinition : sbox 0x53 = sbox 0x53 := rfl

theorem witness_RomAddressIsTheConcatenation : (4 : BitVec 3).toNat ≤ 4 ∧ romAddr 4 3 1 = romAddr 4 3 1 := by decide

theorem witness_RomHasExactlyFortyEntries :
    (0 : BitVec 6).toNat < 40 ∧ (39 : BitVec 6).toNat < 40 ∧ 40 ≤ (40 : BitVec 6).toNat ∧ 40 ≤ (63 : BitVec 6).toNat := by
  decide

theorem witness_MixIsTheByteMapAndABijection : mixLanes lanesX = mixLanes lanesX := rfl

/-- A read, an accepted command, a refused one and reset, each from a good state. -/
theorem witness_EveryStepKeepsGoodStates :
    ∀ a ∈ [.read 0x80, .write 0xA0 0x10, .write 0xA0 0x16, .write 0xA0 0x30, .write 0x00 0xEE, .reset],
      (pending ended [a]).Inv ∧ ∃ t, step (pending ended [a]) = .next t := by
  intro a ha
  refine ⟨?_, (exists_of_nextWith (p := fun _ => true) ?_).imp fun _ h => h.1⟩ <;> revert a ha <;> decide +kernel

theorem witness_EveryStepKeepsMemoryCanonical :
    (pending ended [.write 0x3F 0xAB]).mem.wf = true ∧ ∃ t, step (pending ended [.write 0x3F 0xAB]) = .next t :=
  ⟨by decide, _, rfl⟩

/-- Reset, and the accepted command `H512 0`, each change the digest of `ended`. -/
theorem witness_DigestChangesOnlyByAcceptedCommandOrReset :
    ∀ a ∈ [.reset, .write 0xA0 0x10], (pending ended [a]).mem.wf = true ∧
      ∃ t, step (pending ended [a]) = .next t ∧ t.digest ≠ (pending ended [a]).digest := by
  intro a ha
  refine ⟨rfl, (exists_of_nextWith (p := fun t => decide (t.digest ≠ (pending ended [a]).digest)) ?_).imp
    fun _ h => ⟨h.1, of_decide_eq_true h.2⟩⟩
  revert a ha
  decide +kernel

theorem witness_AssemblerTakesLegalRoundCountsOnly : (0 : Nat) ≤ 5 ∧ (5 : Nat) ≤ 5 ∧ (5 : Nat) < 6 := by decide

theorem witness_LoadStatementsFillTheirBuffer :
    faulted.mem.wf = true ∧ (pending faulted (ldstateAccesses X ++ [.reset])).port = ldstateAccesses X ++ [.reset] ∧
    (pending faulted (ldkeyAccesses X ++ [.reset])).port = ldkeyAccesses X ++ [.reset] := ⟨rfl, rfl, rfl⟩

theorem witness_Haraka512StatementReturnsTheDigest :
    ∃ acc, (Stmt.haraka512 5 X).expand = some acc ∧ 5 ≤ Config.maxRounds ∧
      (pending ended (acc ++ [.reset])).Inv ∧ statusFault ended.status = false ∧
      (pending ended (acc ++ [.reset])).port = acc ++ [.reset] :=
  ⟨_, rfl, by decide, by decide +kernel, rfl, rfl⟩

theorem witness_Haraka512KStatementReturnsTheDigest :
    ∃ acc, (Stmt.haraka512k 5 X X).expand = some acc ∧ 5 ≤ Config.maxRounds ∧
      (pending ended (acc ++ [.reset])).Inv ∧ statusFault ended.status = false ∧
      (pending ended (acc ++ [.reset])).port = acc ++ [.reset] :=
  ⟨_, rfl, by decide, by decide +kernel, rfl, rfl⟩

end Sys2Proof.Tests
end

section
/-! The window map of R34 and R35, one equation per address range, and what a step answers for a pending read and a
pending write. -/

namespace Sys2Proof.Machine

/-! ### A step with an access pending -/

theorem step_of_read {s : State} {a : BitVec 8} {rest : List HostAccess} (h : s.port = .read a :: rest) :
    step s = .next ((s.setPort rest).reply (memRead s a)) := by
  rw [step, hostStep, h]
  rfl

theorem step_of_write {s : State} {a : BitVec 8} {v : Byte} {rest : List HostAccess}
    (h : s.port = .write a v :: rest) : step s = memWrite (s.setPort rest) a v := by
  rw [step, hostStep, h]
  rfl

/-! ### The byte a read returns -/

theorem memRead_buffer (s : State) {a : BitVec 8} (h : a.toNat ≤ 0x9F) : memRead s a = s.mem.read a.toNat :=
  if_pos h

@[simp] theorem memRead_cmd (s : State) : memRead s 0xA0 = s.cmd := rfl

@[simp] theorem memRead_status (s : State) : memRead s 0xA1 = s.status := rfl

theorem memRead_reserved (s : State) {a : BitVec 8} (h : 0xA2 ≤ a.toNat) : memRead s a = 0x00 := by
  have hcmd : a ≠ 0xA0 := by rintro rfl; simp at h
  have hstatus : a ≠ 0xA1 := by rintro rfl; simp at h
  rw [memRead, if_neg (by omega), if_neg hcmd, if_neg hstatus]

theorem memRead_stateIn (s : State) {a : BitVec 8} (j : Fin 64) (h : a.toNat = 0x00 + j.val) :
    memRead s a = s.stateIn[j] := by
  rw [memRead_buffer s (by omega), h, Nat.zero_add]
  exact (s.stateIn_getElem j j.isLt).symm

theorem memRead_keyIn (s : State) {a : BitVec 8} (j : Fin 64) (h : a.toNat = 0x40 + j.val) :
    memRead s a = s.keyIn[j] := by
  rw [memRead_buffer s (by omega), h]
  exact (s.keyIn_getElem j j.isLt).symm

theorem memRead_digest (s : State) {a : BitVec 8} (j : Fin 32) (h : a.toNat = 0x80 + j.val) :
    memRead s a = s.digest[j] := by
  rw [memRead_buffer s (by omega), h]
  exact (s.digest_getElem j j.isLt).symm

/-! ### What a write does -/

theorem memWrite_input (s : State) {a : BitVec 8} (v : Byte) (h : a.toNat ≤ 0x7F) :
    memWrite s a v = .next (s.storeByte a.toNat v) :=
  if_pos h

theorem memWrite_cmd (s : State) (v : Byte) :
    memWrite s 0xA0 v = if statusFault s.status then .next s else submit v (s.setCmd v) := rfl

theorem memWrite_ignored (s : State) {a : BitVec 8} (v : Byte) (h : 0x80 ≤ a.toNat) (hcmd : a ≠ 0xA0) :
    memWrite s a v = .next s := by
  rw [memWrite, if_neg (by omega), if_neg hcmd]

/-! ### The obligations -/

/-- Settles O7: the byte returned is `memRead s a`, and each clause is one line of the window map. -/
theorem hostReadReturnsTheMappedByte : Obligations.HostReadReturnsTheMappedByte := by
  intro s a rest hport
  refine ⟨memRead s a, step_of_read hport, memRead_stateIn s, memRead_keyIn s, memRead_digest s, ?cmd, ?status,
    memRead_reserved s⟩
  case cmd => rintro rfl; exact memRead_cmd s
  case status => rintro rfl; exact memRead_status s

/-- Settles O8: one case per line of `memWrite`; the new memory is the old one with the byte written, so the memory laws
give its canonical form and every byte of it. -/
theorem hostWriteStoresOrSubmitsOrIsIgnored : Obligations.HostWriteStoresOrSubmitsOrIsIgnored := by
  intro s a v rest hwf hport
  rw [step_of_write hport]
  refine ⟨fun hinput => ?input, ?cmd, fun ⟨habove, hcmd⟩ => ?ignored⟩
  case input =>
    exact ⟨s.mem.write a.toNat v, memWrite_input _ v hinput, Memory.wf_write hwf _ v (by omega),
      Memory.read_write hwf a.toNat v⟩
  case cmd => rintro rfl; exact memWrite_cmd _ v
  case ignored => exact memWrite_ignored _ v habove hcmd

end Sys2Proof.Machine
end

section
/-! The command byte (R50 to R54): its two fields as numbers, the three ways a byte decodes, the round count test that
both commands share, and the command statements of a script (R57). -/

namespace Sys2Proof

/-! ### The fields of a command byte -/

theorem opField_toNat (b : Byte) : (opField b).toNat = b.toNat / 16 := by
  have hb := b.isLt
  simp only [opField, BitVec.extractLsb'_toNat, Nat.shiftRight_eq_div_pow]
  omega

theorem nField_toNat (b : Byte) : (nField b).toNat = b.toNat % 16 := by
  simp [nField]

/-! ### Decoding by the operation code -/

theorem decode_h512 {b : Byte} (h : b.toNat / 16 = 1) : decode b = .ok (.h512 (nField b)) := by
  have hop : opField b = opH512 := BitVec.eq_of_toNat_eq ((opField_toNat b).trans h)
  rw [decode, if_pos hop]

theorem decode_h512k {b : Byte} (h : b.toNat / 16 = 2) : decode b = .ok (.h512k (nField b)) := by
  have hop : opField b = opH512K := BitVec.eq_of_toNat_eq ((opField_toNat b).trans h)
  rw [decode, hop]
  rfl

theorem decode_reserved {b : Byte} (h1 : b.toNat / 16 ≠ 1) (h2 : b.toNat / 16 ≠ 2) :
    decode b = .error (.illegalOp (opField b)) := by
  have hop1 : opField b ≠ opH512 := fun e => h1 (by rw [← opField_toNat, e]; rfl)
  have hop2 : opField b ≠ opH512K := fun e => h2 (by rw [← opField_toNat, e]; rfl)
  rw [decode, if_neg hop1, if_neg hop2]

/-- R50: the operation code alone decides which command a byte names, or that it names none. -/
theorem decode_cases (b : Byte) :
    (b.toNat / 16 = 1 ∧ decode b = .ok (.h512 (nField b))) ∨
    (b.toNat / 16 = 2 ∧ decode b = .ok (.h512k (nField b))) ∨
    (b.toNat / 16 ≠ 1 ∧ b.toNat / 16 ≠ 2 ∧ decode b = .error (.illegalOp (opField b))) := by
  by_cases h1 : b.toNat / 16 = 1
  · exact .inl ⟨h1, decode_h512 h1⟩
  by_cases h2 : b.toNat / 16 = 2
  · exact .inr (.inl ⟨h2, decode_h512k h2⟩)
  · exact .inr (.inr ⟨h1, h2, decode_reserved h1 h2⟩)

/-! ### The byte of a command with a given round count -/

theorem nField_ofNat (hi n : Nat) : nField (BitVec.ofNat 8 (16 * hi + n)) = BitVec.ofNat 4 n := by
  apply BitVec.eq_of_toNat_eq
  rw [nField_toNat, BitVec.toNat_ofNat, BitVec.toNat_ofNat]
  omega

theorem decode_h512_ofNat {n : Nat} (hn : n < 16) :
    decode (BitVec.ofNat 8 (0x10 + n)) = .ok (.h512 (BitVec.ofNat 4 n)) := by
  rw [decode_h512 (by rw [BitVec.toNat_ofNat]; omega), nField_ofNat 1 n]

theorem decode_h512k_ofNat {n : Nat} (hn : n < 16) :
    decode (BitVec.ofNat 8 (0x20 + n)) = .ok (.h512k (BitVec.ofNat 4 n)) := by
  rw [decode_h512k (by rw [BitVec.toNat_ofNat]; omega), nField_ofNat 2 n]

/-! ### Well-formed commands -/

theorem Instr.wellFormed_iff (i : Instr) : i.wellFormed = true ↔ i.rounds.toNat ≤ 5 :=
  decide_eq_true_iff

/-- R53: the legal bytes are those with `N` in 0..5 under one of the two operation codes. -/
theorem decode_wellFormed_iff (b : Byte) :
    (∃ i, decode b = .ok i ∧ i.wellFormed = true) ↔
      (b.toNat / 16 = 1 ∨ b.toNat / 16 = 2) ∧ b.toNat % 16 ≤ 5 := by
  obtain ⟨hop, hdec⟩ | ⟨hop, hdec⟩ | ⟨hop1, hop2, hdec⟩ := decode_cases b
  · simp [hdec, hop, Instr.wellFormed_iff, Instr.rounds, nField_toNat]
  · simp [hdec, hop, Instr.wellFormed_iff, Instr.rounds, nField_toNat]
  · simp [hdec, hop1, hop2]

end Sys2Proof

namespace Sys2Proof.Machine

/-! ### Submitting a byte that is not legal -/

/-- R141: both commands make the same test of the round count before anything else. -/
theorem exec_of_five_lt {i : Instr} (h : 5 < i.rounds.toNat) (s : State) :
    exec i s = .next (s.raiseFault .roundsRange) := by
  cases i with
  | h512 n => exact if_neg (Nat.not_le.mpr h)
  | h512k n => exact if_neg (Nat.not_le.mpr h)

theorem submit_roundsRange {b : Byte} (hop : b.toNat / 16 = 1 ∨ b.toNat / 16 = 2) (hn : 5 < b.toNat % 16)
    (s : State) : submit b s = .next (s.raiseFault .roundsRange) := by
  rw [← nField_toNat] at hn
  obtain hop | hop := hop
  · rw [submit_of_ok (decode_h512 hop), exec_of_five_lt (i := .h512 (nField b)) hn]
  · rw [submit_of_ok (decode_h512k hop), exec_of_five_lt (i := .h512k (nField b)) hn]

theorem submit_illegalOp {b : Byte} (h1 : b.toNat / 16 ≠ 1) (h2 : b.toNat / 16 ≠ 2) (s : State) :
    submit b s = .next (s.raiseFault .illegalOp) :=
  submit_of_error (decode_reserved h1 h2) s

/-! ### The command statements of a script -/

theorem command_of_le (base : Byte) {n : Nat} (h : n ≤ 5) :
    command base n = some [.write 0xA0 (base + BitVec.ofNat 8 n)] :=
  if_pos h

theorem command_of_five_lt (base : Byte) {n : Nat} (h : 5 < n) : command base n = none :=
  if_neg (Nat.not_le.mpr h)

theorem expand_h512_of_le {n : Nat} (h : n ≤ 5) :
    (Stmt.h512 n).expand = some [.write 0xA0 (BitVec.ofNat 8 (0x10 + n))] := by
  rw [BitVec.ofNat_add]
  exact command_of_le 0x10 h

theorem expand_h512k_of_le {n : Nat} (h : n ≤ 5) :
    (Stmt.h512k n).expand = some [.write 0xA0 (BitVec.ofNat 8 (0x20 + n))] := by
  rw [BitVec.ofNat_add]
  exact command_of_le 0x20 h

/-! ### The obligations -/

/-- Settles O3: each range of bytes is a condition on the two fields, which are the quotient and the remainder of the
byte by 16; the three clauses are then the laws of the decoder and of `submit`. -/
theorem submitFaultsOnEveryIllegalByte : Obligations.SubmitFaultsOnEveryIllegalByte := by
  refine ⟨fun b => ?legal, fun b s hb => ?roundsRange, fun b s hb => ?illegalOp⟩
  case legal => rw [decode_wellFormed_iff]; omega
  case roundsRange => exact submit_roundsRange (by omega) (by omega) s
  case illegalOp => exact submit_illegalOp (by omega) (by omega) s

/-- Settles O2: the table of R54 is the decoder's law for the bytes `0x10 + n` and `0x20 + n` at `n` = 0..5. -/
theorem legalBytesDecodeToTheirCommands : Obligations.LegalBytesDecodeToTheirCommands := by
  have unkeyed (n : Fin 6) := decode_h512_ofNat (n := n) (by omega)
  have keyed (n : Fin 6) := decode_h512k_ofNat (n := n) (by omega)
  exact ⟨unkeyed 0, unkeyed 1, unkeyed 2, unkeyed 3, unkeyed 4, unkeyed 5,
    keyed 0, keyed 1, keyed 2, keyed 3, keyed 4, keyed 5⟩

/-- Settles O51: a command statement expands by the assembler's test of `n`, and its byte decodes by the decoder's law
for `0x10 + n` and `0x20 + n`. -/
theorem assemblerTakesLegalRoundCountsOnly : Obligations.AssemblerTakesLegalRoundCountsOnly := by
  refine ⟨fun a v => ⟨rfl, rfl⟩, rfl, fun n hn => ?accepted, fun n hn => ?rejected⟩
  case accepted =>
    exact ⟨expand_h512_of_le hn, expand_h512k_of_le hn, decode_h512_ofNat (by omega), decode_h512k_ofNat (by omega)⟩
  case rejected => exact ⟨command_of_five_lt 0x10 hn, command_of_five_lt 0x20 hn⟩

end Sys2Proof.Machine
end

section
/-! The lane primitives (R71 to R78): the inverse and group laws of LOAD, STORE and XOR, the S-box from its definition,
ShiftRows on the byte matrix, and MixColumns as a matrix product. -/

namespace Sys2Proof.Machine

/-! ### XOR of lanes (R73) -/

theorem xorLane_assoc (A B C : Lane) : xorLane (xorLane A B) C = xorLane A (xorLane B C) := by
  ext k hk : 1
  simp only [xorLane_getElem, BitVec.xor_assoc]

theorem xorLane_comm (A B : Lane) : xorLane A B = xorLane B A := by
  ext k hk : 1
  simp only [xorLane_getElem, BitVec.xor_comm]

@[simp] theorem xorLane_zeroLane (A : Lane) : xorLane A zeroLane = A := by
  ext k hk : 1
  rw [xorLane_getElem, zeroLane_getElem]
  exact BitVec.xor_zero

/-! ### The S-box (R74) -/

/-- The inverse of the affine map of R74: each rotation of a byte is linear over bits, and `y` is the exclusive-or of
three rotations of `sboxAffine y` and a constant. -/
def sboxAffineInv (z : Byte) : Byte := z.rotateLeft 1 ^^^ z.rotateLeft 3 ^^^ z.rotateLeft 6 ^^^ 0x05

theorem sboxAffine_sboxAffineInv : ∀ z : Byte, sboxAffine (sboxAffineInv z) = z := by decide

/-- The byte whose affine image stands in the table at `b`. -/
def sboxRoot (b : Byte) : Byte := sboxAffineInv (sbox b)

theorem sbox_eq_sboxAffine_sboxRoot (b : Byte) : sbox b = sboxAffine (sboxRoot b) :=
  (sboxAffine_sboxAffineInv (sbox b)).symm

/-- `sboxRoot` is the inverse in GF(2^8): one multiplication for each nonzero byte of the table. -/
theorem gfMul_sboxRoot : ∀ b : Byte, b ≠ 0x00 → gfMul b (sboxRoot b) = 0x01 := by decide

theorem sboxRoot_zero : sboxRoot 0x00 = 0x00 := by decide

theorem sboxRoot_involutive : Function.Involutive sboxRoot := by
  unfold Function.Involutive
  decide

theorem sbox_injective : Function.Injective sbox := fun b c h =>
  sboxRoot_involutive.injective (congrArg sboxAffineInv h : sboxRoot b = sboxRoot c)

/-! ### ShiftRows on the byte matrix (R70, R75) -/

/-- The index map of R75 at row `r`, column `c`: multiplying `4*c + r` by 5 adds `4*r` to it modulo 16. -/
theorem shiftRows_index (r c : Fin 4) : 5 * (4 * c.val + r.val) % 16 = 4 * ((c.val + r.val) % 4) + r.val := by
  omega

theorem shiftRows_subBytes (L : Lane) : shiftRows (subBytes L) = subBytes (shiftRows L) := by
  ext k hk : 1
  simp only [shiftRows_getElem, subBytes_getElem]

/-! ### MixColumns as a matrix product (R76) -/

theorem gfMul_two : ∀ b : Byte, gfMul 0x02 b = mul2 b := by decide

theorem gfMul_three : ∀ b : Byte, gfMul 0x03 b = mul3 b := by decide

theorem mixColumns_column (L : Lane) (c r : Nat) (hc : c < 4) (hr : r < 4) :
    (mixColumns L)[4 * c + r] = (mixColumn L[4 * c] L[4 * c + 1] L[4 * c + 2] L[4 * c + 3])[r] := by
  have hdiv : (4 * c + r) / 4 = c := by omega
  have hmod : (4 * c + r) % 4 = r := by omega
  simp only [mixColumns_getElem, hdiv, hmod]

theorem mul2_xor_mul3 (v : Byte) : mul2 v ^^^ mul3 v = v := by simp [mul2, mul3]

/-- Each row of the matrix of R76 holds 2, 3, 1 and 1: the products with 2 and 3 add to `v`, and the two 1s cancel. -/
theorem mixColumn_const (v : Byte) : mixColumn v v v v = #v[v, v, v, v] := by
  have h23 : mul2 v ^^^ mul3 v = v := mul2_xor_mul3 v
  have h32 : mul3 v ^^^ mul2 v = v := by rw [BitVec.xor_comm, h23]
  have row0 : mul2 v ^^^ mul3 v ^^^ v ^^^ v = v := by simp only [h23, BitVec.xor_self, BitVec.zero_xor]
  have row1 : v ^^^ mul2 v ^^^ mul3 v ^^^ v = v := by
    simp only [BitVec.xor_assoc v, h23, BitVec.xor_self, BitVec.zero_xor]
  have row2 : v ^^^ v ^^^ mul2 v ^^^ mul3 v = v := by simp only [BitVec.xor_self, BitVec.zero_xor, h23]
  have row3 : mul3 v ^^^ v ^^^ v ^^^ mul2 v = v := by
    simp only [BitVec.xor_assoc _ v v, BitVec.xor_self, BitVec.xor_zero, h32]
  simp only [mixColumn, row0, row1, row2, row3]

/-! ### The obligations -/

/-- Settles O38: the inverse is the affine preimage of the table entry, and taking it twice gives the byte back, so no
two bytes share an entry. -/
theorem sboxTableIsItsDefinition : Obligations.SboxTableIsItsDefinition := by
  refine ⟨fun b => ⟨sboxRoot b, ?inverse, sbox_eq_sboxAffine_sboxRoot b⟩, fun b c h => sbox_injective h,
    fun L k => subBytes_getElem L k k.isLt⟩
  case inverse =>
    by_cases hb : b = 0x00
    · exact .inl ⟨hb, by rw [hb, sboxRoot_zero]⟩
    · exact .inr (gfMul_sboxRoot b hb)

/-- Settles O40: the column law of the model names `mul2` and `mul3`, which are the products with 2 and 3. -/
theorem mixColumnsMultipliesByTheMatrix : Obligations.MixColumnsMultipliesByTheMatrix := by
  refine ⟨fun L c => ?matrix, mixColumn_const⟩
  case matrix =>
    have column (r : Fin 4) := mixColumns_column L c r c.isLt r.isLt
    simp only [gfMul_two, gfMul_three]
    exact ⟨column 0, column 1, column 2, column 3⟩

/-- Settles O41: the key is the right operand of the last XOR, and ShiftRows moves bytes that SubBytes maps one by
one. -/
theorem aesRoundOrder : Obligations.AesRoundOrder := by
  refine ⟨fun L RK => rfl, shiftRows_subBytes, fun L RK => ?keyLast⟩
  case keyLast => simp only [aesRnd, addRoundKey_eq, xorLane_zeroLane]

/-- Settles O25: LOAD answers `setS` of the four loaded lanes. -/
theorem loadFillsTheWorkingState : Obligations.LoadFillsTheWorkingState := by
  refine ⟨fun B k => by rw [loadLane_eq], fun s => ⟨loadLanes s.stateIn, rfl, fun i k => ?byte⟩⟩
  case byte => exact loadLanes_getElem s.stateIn i k i.isLt k.isLt

/-- Settles O36: both operations are the identity on the sixteen bytes. -/
theorem storeAndLoadAreInverse : Obligations.StoreAndLoadAreInverse := by
  refine ⟨fun L k => by rw [storeLane_eq], fun B => ?storeLoad, fun L => ?loadStore⟩
  case storeLoad => rw [storeLane_eq, loadLane_eq]
  case loadStore => rw [loadLane_eq, storeLane_eq]

/-- Settles O37: XOR of lanes takes its laws from XOR of bytes. -/
theorem xorLaneLaws : Obligations.XorLaneLaws :=
  ⟨fun A B k => xorLane_getElem A B k k.isLt, xorLane_assoc, xorLane_comm, xorLane_zeroLane⟩

/-- Settles O39: byte `k` comes from byte `(5*k) mod 16`, which at row `r` and column `c` is `shiftRows_index`. -/
theorem shiftRowsRotatesEachRow : Obligations.ShiftRowsRotatesEachRow := by
  intro L r c
  simp only [shiftRows_getElem, shiftRows_index]

end Sys2Proof.Machine
end

section
/-! The round-constant ROM holds the published constants (R93): the two tables write the bytes of a constant in opposite
orders, and a general law relates the two readings. -/

namespace Sys2Proof.Machine

/-! ### A numeral with its bytes in the opposite order -/

/-- The numeral whose `n` bytes are the low `n` bytes of `c` in the opposite order. -/
def reverseBytes : Nat → Nat → Nat
  | 0, _ => 0
  | n + 1, c => 256 ^ n * (c % 256) + reverseBytes n (c / 256)

theorem reverseBytes_lt (n c : Nat) : reverseBytes n c < 256 ^ n := by
  induction n generalizing c with
  | zero => exact Nat.one_pos
  | succ n ih =>
    have htop : 256 ^ n * (c % 256) ≤ 256 ^ n * 255 := Nat.mul_le_mul_left _ (by omega)
    have hrest := ih (c / 256)
    rw [reverseBytes, pow_succ]
    omega

/-- Of `m + k + 1` bytes, the one with `m` bytes below it comes from the one with `m` bytes above it. -/
theorem reverseBytes_byte (m k c : Nat) :
    reverseBytes (m + k + 1) c / 256 ^ m % 256 = c / 256 ^ k % 256 := by
  induction k generalizing c with
  | zero =>
    rw [Nat.add_zero, reverseBytes, Nat.mul_add_div (by positivity), Nat.div_eq_of_lt (reverseBytes_lt m _),
      Nat.add_zero, Nat.mod_mod, pow_zero, Nat.div_one]
  | succ k ih =>
    have hpow : 256 ^ (m + (k + 1)) * (c % 256) = 256 ^ m * (256 * (256 ^ k * (c % 256))) := by ring
    rw [reverseBytes, hpow, Nat.mul_add_div (by positivity), Nat.mul_add_mod, ← Nat.add_assoc, ih,
      Nat.div_div_eq_div_mul, ← Nat.pow_succ']

/-- A lane written in byte order is the numeral with the 16 bytes in reverse order of writing (R93). -/
theorem laneHex_reverseBytes (c : BitVec 128) : laneHex (reverseBytes 16 c.toNat) = bytesOf c := by
  ext k hk : 1
  have hbyte : reverseBytes 16 c.toNat / 256 ^ (15 - k) % 256 = c.toNat / 256 ^ k % 256 := by
    have h := reverseBytes_byte (15 - k) k c.toNat
    rwa [show 15 - k + k + 1 = 16 by omega] at h
  apply BitVec.eq_of_toNat_eq
  simpa [laneHex, bytesOf, Nat.shiftRight_eq_div_pow, pow_mul] using hbyte

/-! ### The two tables -/

theorem published_length : published.length = Config.rcDepth := rfl

/-- The publication number of the constant at a ROM address (the column `p` of R90): in every block of 8, the addresses
hold the constants 0, 4, 1, 5, 2, 6, 3, 7. -/
def publicationIndex (a : Nat) : Nat := 8 * (a / 8) + 4 * (a % 2) + a % 8 / 2

theorem publicationIndex_lt {a : Nat} (ha : a < Config.rcDepth) : publicationIndex a < published.length := by
  have hdepth : Config.rcDepth = 40 := rfl
  rw [hdepth] at ha
  rw [published_length, hdepth, publicationIndex]
  omega

theorem publicationIndex_romIndex (r : Nat) {i j : Nat} (hi : i < 4) (hj : j < 2) :
    publicationIndex (8 * r + 2 * i + j) = 8 * r + 4 * j + i := by
  unfold publicationIndex
  omega

/-- Up to the order of their bytes, the two tables hold the same numerals. -/
theorem rom_eq_ofFn_published :
    rom = List.ofFn fun a =>
      laneHex (reverseBytes 16 (published[publicationIndex a]'(publicationIndex_lt a.isLt)).toNat) := rfl

/-- The ROM entry at an address is the lane of the constant whose number the address stands for (R90, R93). -/
theorem rom_getElem?_eq_published {a : Nat} (ha : a < Config.rcDepth) :
    rom[a]? = some (bytesOf (published[publicationIndex a]'(publicationIndex_lt ha))) := by
  rw [rom_eq_ofFn_published, List.getElem?_ofFn, dif_pos ha, laneHex_reverseBytes]

/-! ### The obligation -/

/-- Settles O44: the address `8*r + 2*i + j` stands for the publication number `8*r + 4*j + i`. -/
theorem romHoldsThePublishedConstants : Obligations.RomHoldsThePublishedConstants := by
  intro r i j
  have ha : 8 * r.val + 2 * i.val + j.val < Config.rcDepth := by
    have hdepth : Config.rcDepth = 40 := rfl
    omega
  refine ⟨_, ?listed, rom_getElem?_eq_published ha⟩
  case listed =>
    rw [← publicationIndex_romIndex r i.isLt j.isLt]
    exact List.getElem?_eq_getElem _

end Sys2Proof.Machine
end

section
/-! The round function (R100): lane `i` after the AES step (R101), and where each word goes in the mix (R102). -/

namespace Sys2Proof.Machine

/-! ### The AES step, lane by lane -/

theorem romIndex_lt {r i j : Nat} (hr : r < 5) (hi : i < 4) (hj : j < 2) : 8 * r + 2 * i + j < rom.length := by
  rw [rom_length, Config.rcDepth]
  omega

@[simp] theorem aes2f_getElem (P : Lanes) (r : Fin 5) (i : Nat) (hi : i < 4) :
    (aes2f P r)[i] =
      aesRnd (aesRnd P[i] (rom[8 * r.val + 2 * i]'(romIndex_lt r.isLt hi Nat.two_pos)))
        (rom[8 * r.val + 2 * i + 1]'(romIndex_lt r.isLt hi Nat.one_lt_two)) := by
  simp [aes2f]

/-! ### The mix, word by word -/

/-- The table of R102, row `i`: the lanes of the old state that the words of new lane `i` come from. -/
def mixSourceLane (i w : Fin 4) : Fin 4 := #v[#v[0, 2, 1, 3], #v[2, 0, 3, 1], #v[2, 0, 3, 1], #v[0, 2, 1, 3]][i][w]

/-- The table of R102, row `i`: the number, in its old lane, of every word of new lane `i`. -/
def mixSourceWord (i : Fin 4) : Fin 4 := #v[3, 0, 1, 2][i]

/-- The word of the old state that R102 moves to word `w` of lane `i`. -/
def mixSource (S : Lanes) (i w : Fin 4) : LaneWord := laneWord S[mixSourceLane i w] (mixSourceWord i)

theorem mixLanes_getElem (S : Lanes) (i : Fin 4) :
    (mixLanes S)[i] = ofWords (mixSource S i 0) (mixSource S i 1) (mixSource S i 2) (mixSource S i 3) :=
  match i with
  | 0 => mixLanes_lane0 S
  | 1 => mixLanes_lane1 S
  | 2 => mixLanes_lane2 S
  | 3 => mixLanes_lane3 S

theorem laneWord_mixLanes (S : Lanes) (i w : Fin 4) : laneWord (mixLanes S)[i] w = mixSource S i w := by
  rw [mixLanes_getElem, laneWord_ofWords]
  match w with
  | 0 | 1 | 2 | 3 => rfl

/-! ### The obligations -/

/-- Settles O29: a round index up to 4 addresses entries of the ROM, so AES2 answers `AES2f` of the working lanes. -/
theorem aes2AppliesTwoRoundsToEachLane : Obligations.Aes2AppliesTwoRoundsToEachLane := by
  intro s S r hS hr hr4
  have hr5 : r.toNat < 5 := Nat.lt_succ_of_le hr4
  refine ⟨aes2f S ⟨r.toNat, hr5⟩, aes2_of_some hS hr hr5, fun i => ?lane⟩
  case lane =>
    have firstKey := List.getElem?_eq_getElem (romIndex_lt hr5 i.isLt Nat.two_pos)
    have secondKey := List.getElem?_eq_getElem (romIndex_lt hr5 i.isLt Nat.one_lt_two)
    exact ⟨_, _, firstKey, secondKey, aes2f_getElem S ⟨r.toNat, hr5⟩ i i.isLt⟩

/-- Settles O30: MIX answers `setS` of the mixed lanes, whose words are those of the table. -/
theorem mixMovesWordsByTheTable : Obligations.MixMovesWordsByTheTable :=
  fun _ S hS => ⟨mixLanes S, mix_of_some hS, laneWord_mixLanes S⟩

end Sys2Proof.Machine
end

section
/-! Truncation (R110): which byte of a digest lies in which segment, and what TRUNC leaves to read. -/

namespace Sys2Proof.Machine

/-! ### The digest, segment by segment -/

theorem ofSegments_byte (g0 g1 g2 g3 : Segment) (i : Fin 4) (t : Fin 8) :
    (ofSegments g0 g1 g2 g3)[8 * i.val + t.val] = #v[g0, g1, g2, g3][i][t] := by
  have hseg : (8 * i.val + t.val) / 8 = i.val := by omega
  have hbyte : (8 * i.val + t.val) % 8 = t.val := by omega
  simp [hseg, hbyte]

/-- The segments that R110 selects, in the order in which they lie in the digest. -/
def selectedSegments (S : Lanes) : Vector Segment 4 :=
  #v[segment S[0] 1, segment S[1] 1, segment S[2] 0, segment S[3] 0]

theorem truncate_byte (S : Lanes) (i : Fin 4) (t : Fin 8) :
    (truncate S)[8 * i.val + t.val] = (selectedSegments S)[i][t] :=
  ofSegments_byte _ _ _ _ i t

theorem selectedSegments_lane0 (S : Lanes) (t : Fin 8) :
    (selectedSegments S)[(0 : Fin 4)][t] = S[0][8 + t.val] :=
  segment_getElem S[0] 1 t t.isLt

theorem selectedSegments_lane1 (S : Lanes) (t : Fin 8) :
    (selectedSegments S)[(1 : Fin 4)][t] = S[1][8 + t.val] :=
  segment_getElem S[1] 1 t t.isLt

theorem selectedSegments_lane2 (S : Lanes) (t : Fin 8) :
    (selectedSegments S)[(2 : Fin 4)][t] = S[2][t.val] :=
  (segment_getElem S[2] 0 t t.isLt).trans (by simp)

theorem selectedSegments_lane3 (S : Lanes) (t : Fin 8) :
    (selectedSegments S)[(3 : Fin 4)][t] = S[3][t.val] :=
  (segment_getElem S[3] 0 t t.isLt).trans (by simp)

/-! ### What storing a digest leaves to read -/

theorem State.storeDigest_read_digest {s : State} (h : s.mem.wf = true) (d : Digest) {j : Nat} (hj : j < 32) :
    (s.storeDigest d).mem.read (0x80 + j) = d[j] := by
  rw [← State.digest_getElem _ j hj]
  simp only [State.storeDigest_digest h]

theorem State.storeDigest_read_outside {s : State} (h : s.mem.wf = true) (d : Digest) {a : Nat}
    (ha : ¬ (0x80 ≤ a ∧ a < 0xA0)) : (s.storeDigest d).mem.read a = s.mem.read a := by
  rw [State.storeDigest_read h, dif_neg ha]

/-- Byte `t` of selected segment `i` is read back at `0x80 + 8*i + t`. -/
theorem storeDigest_truncate_read {s : State} (h : s.mem.wf = true) (S : Lanes) (i : Fin 4) (t : Fin 8) {a : Nat}
    (ha : a = 0x80 + 8 * i.val + t.val) : (s.storeDigest (truncate S)).mem.read a = (selectedSegments S)[i][t] := by
  rw [ha, Nat.add_assoc, State.storeDigest_read_digest h _ (by omega), truncate_byte]

/-! ### What TRUNC answers -/

/-- For any digest, so that comparing the two states evaluates no byte of it. -/
theorem State.storeDigest_setDone_setPc (s : State) (d : Digest) (b : Bool) (p : Phase) (r : Option (BitVec 3)) :
    ((s.storeDigest d).setDone b).setPc p r =
      { s with mem := (s.storeDigest d).mem, status := Machine.setDone b s.status, phase := p, rnd := r } := rfl

/-- TRUNC, field by field: the registers it does not name keep their values. -/
theorem trunc_eq_of_some {s : State} {S : Lanes} (h : s.laneS = some S) :
    trunc s = .next { s with
      mem := (s.storeDigest (truncate S)).mem, status := setDone true s.status, phase := .idle, rnd := none } := by
  rw [trunc_of_some h, State.storeDigest_setDone_setPc]

/-! ### The obligation -/

/-- Settles O31: TRUNC stores the truncated lanes as the digest, so a byte of DIGEST is a byte of a selected segment and
every other address reads what it read before. -/
theorem truncWritesTheSelectedBytes : Obligations.TruncWritesTheSelectedBytes := by
  intro s S hwf hS
  have hread := storeDigest_truncate_read hwf S
  refine ⟨(s.storeDigest (truncate S)).mem, trunc_eq_of_some hS, State.storeDigest_wf hwf _, fun t => ?selected,
    fun _ => State.storeDigest_read_outside hwf _⟩
  case selected =>
    exact ⟨(hread 0 t rfl).trans (selectedSegments_lane0 S t), (hread 1 t rfl).trans (selectedSegments_lane1 S t),
      (hread 2 t rfl).trans (selectedSegments_lane2 S t), (hread 3 t rfl).trans (selectedSegments_lane3 S t)⟩

end Sys2Proof.Machine
end

section
/-! The commands as a whole (R120, R130): the loop of rounds at the latched count, what both commands do from SAVE on,
and the state in which `H512 n` leaves the engine. -/

namespace Sys2Proof.Machine

/-! ### The end of an operation -/

/-- The state in which an operation that computed the digest `d` leaves the engine (R110, R19): `DIGEST` is `d`, `DONE`
is set, the sequencer rests in `IDLE` and the working registers hold no value. -/
def State.finish (s : State) (d : Digest) : State :=
  { s with
    mem := (s.storeDigest d).mem, status := Machine.setDone true s.status, phase := .idle, laneS := none,
    laneT := none, rnd := none, opk := none, nl := none }

theorem State.finish_digest {s : State} (h : s.mem.wf = true) (d : Digest) : (s.finish d).digest = d :=
  (State.digest_congr rfl).trans (State.storeDigest_digest h d)

/-- For any digest, so that comparing the two states evaluates no byte of it. -/
theorem State.endOperation_storeDigest (s : State) (d : Digest) :
    (((s.storeDigest d).setDone true).setPc .idle none).endOperation = s.finish d := rfl

@[simp] theorem State.finish_setS (s : State) (S : Lanes) (d : Digest) : (s.setS S).finish d = s.finish d := rfl

@[simp] theorem State.finish_setT (s : State) (T : Lanes) (d : Digest) : (s.setT T).finish d = s.finish d := rfl

@[simp] theorem State.finish_setPc (s : State) (p : Phase) (r : Option (BitVec 3)) (d : Digest) :
    (s.setPc p r).finish d = s.finish d := rfl

@[simp] theorem State.finish_accept (s : State) (keyed : Bool) (n : BitVec 4) (d : Digest) :
    (s.accept keyed n).finish d = s.finish d := by
  ext1 <;> simp [State.finish]

/-! ### From SAVE to the end -/

/-- The counted loop runs the rounds that the latched `NL` says (R124). -/
theorem rounds_of_some {s : State} {S : Lanes} {n : BitVec 3} (hS : s.laneS = some S) (hn : s.nl = some n)
    (h : n.toNat ≤ Config.maxRounds) :
    ∃ p r, rounds s = .next ((s.setPc p r).setS (roundsf n.toNat h S)) := by
  rw [rounds, withNl_some hn]
  exact roundLoop_of_some hS n.toNat h

/-- The micro-operations that both commands end with: the lanes `P` that SAVE finds are fed forward into the result of
their rounds, whatever `T` held before. -/
theorem saveToEnd_of_some {s : State} {P : Lanes} {n : BitVec 4} (hS : s.laneS = some P)
    (hn : s.nl = some (n.setWidth 3)) (h : n.toNat ≤ Config.maxRounds) :
    (save s
      |> andThen rounds
      |> andThen (fun s => ffwd (s.setPc .ffwd none))
      |> andThen (fun s => trunc (s.setPc .trunc none))
      |> andThen (fun s => .next s.endOperation)) =
    .next (s.finish (truncate (xorLanes (roundsf n.toNat h P) P))) := by
  have hcount : (n.setWidth 3).toNat = n.toNat := toNat_setWidth_three h
  obtain ⟨p, r, hrounds⟩ := rounds_of_some (s := s.setT P) (S := P) (n := n.setWidth 3) hS hn (hcount ▸ h)
  simp only [hcount] at hrounds
  rw [save_of_some hS, andThen_next, hrounds, andThen_next, ffwd_of_some rfl rfl, andThen_next, trunc_of_some rfl,
    andThen_next, State.endOperation_storeDigest]
  simp

/-! ### `H512` -/

theorem exec_h512 (n : BitVec 4) (s : State) : exec (.h512 n) s = execH512 n s := rfl

/-- `H512 n` with an accepted count completes from every state: the lanes loaded from `STATE_IN` are all that the
operation computes with. -/
theorem exec_h512_of_le {n : BitVec 4} (h : n.toNat ≤ Config.maxRounds) (s : State) :
    exec (.h512 n) s = .next (s.finish (haraka512 s.stateIn n.toNat h)) := by
  rw [exec_h512, execH512, if_pos h, load, andThen_next, saveToEnd_of_some (P := loadLanes s.stateIn) rfl rfl h]
  simp [haraka512]

/-! ### The obligation -/

/-- Settles O19: each run ends in its own state with `Haraka512(STATE_IN, n)` stored, and the two inputs are equal. -/
theorem h512DigestDependsOnStateInOnly : Obligations.H512DigestDependsOnStateInOnly := by
  intro n s s' h hwf hwf' hinput
  refine ⟨_, _, exec_h512_of_le h s, exec_h512_of_le h s', ?digests⟩
  case digests => rw [State.finish_digest hwf, State.finish_digest hwf', hinput]

end Sys2Proof.Machine
end

section
/-! The keyed command (R130): `H512K n` completes with `Haraka512K` of the two input buffers, and an all-zero key leaves
the input as it is (R134). -/

namespace Sys2Proof.Machine

/-! ### An all-zero key -/

@[simp] theorem xorBlock_zero (X : Block) : xorBlock X (Vector.replicate 64 0x00) = X := by
  ext j hj : 1
  rw [xorBlock_getElem, Vector.getElem_replicate]
  exact BitVec.xor_zero

theorem haraka512K_zeroKey (X : Block) (n : Nat) (h : n ≤ Config.maxRounds) :
    haraka512K X (Vector.replicate 64 0x00) n h = haraka512 X n h := by
  rw [haraka512K, xorBlock_zero]

/-! ### `H512K` -/

theorem exec_h512k (n : BitVec 4) (s : State) : exec (.h512k n) s = execH512K n s := rfl

/-- `H512K n` with an accepted count completes from every state: KEYXOR runs before SAVE, so the lanes that the rounds
start from and that are fed forward are those of `STATE_IN ^ KEY_IN` (R132). -/
theorem exec_h512k_of_le {n : BitVec 4} (h : n.toNat ≤ Config.maxRounds) (s : State) :
    exec (.h512k n) s = .next (s.finish (haraka512K s.stateIn s.keyIn n.toNat h)) := by
  rw [exec_h512k, execH512K, if_pos h, load, andThen_next, keyXor_of_some (S := loadLanes s.stateIn) rfl, andThen_next,
    saveToEnd_of_some (P := loadLanes (xorBlock s.stateIn s.keyIn)) (congrArg some (loadLanes_xorBlock _ _).symm) rfl h]
  simp [haraka512K, haraka512]

/-! ### The obligation -/

/-- Settles O21: an accepted count ends both commands in the same state with the digest of `STATE_IN`, and a count above
5 raises the same fault in both. -/
theorem zeroKeyGivesTheUnkeyedOutcome : Obligations.ZeroKeyGivesTheUnkeyedOutcome := by
  intro n s hkey
  by_cases h : n.toNat ≤ Config.maxRounds
  case pos => rw [exec_h512k_of_le h, exec_h512_of_le h, hkey, haraka512K_zeroKey]
  case neg =>
    have hrange : 5 < n.toNat := Nat.lt_of_not_le h
    exact (exec_of_five_lt (i := .h512k n) hrange s).trans (exec_of_five_lt (i := .h512 n) hrange s).symm

end Sys2Proof.Machine
end

section
/-! Fault entry and the faulted state (R140 to R146): the fields of `STATUS` after a fault, what raises each of the two
causes, and what every access does while `FAULT` is 1. -/

namespace Sys2Proof.Machine

/-! ### STATUS after a fault -/

theorem statusDone_setFault (b : Bool) (st : BitVec 8) : statusDone (setFault b st) = statusDone st := by
  revert st b; decide

theorem statusFault_setFault (b : Bool) (st : BitVec 8) : statusFault (setFault b st) = b := by
  revert st b; decide

theorem statusReserved_setFault (b : Bool) (st : BitVec 8) : statusReserved (setFault b st) = statusReserved st := by
  revert st b; decide

/-- Writing `CAUSE`, the high half of `STATUS`, leaves each bit of the low half. -/
theorem getLsbD_setCause (c : BitVec 4) (st : BitVec 8) {i : Nat} (hi : i < 4) :
    (setCause c st).getLsbD i = st.getLsbD i := by
  refine BitVec.getLsbD_append.trans ?_
  simp [hi]

theorem statusDone_setCause (c : BitVec 4) (st : BitVec 8) : statusDone (setCause c st) = statusDone st :=
  getLsbD_setCause c st (by decide)

theorem statusFault_setCause (c : BitVec 4) (st : BitVec 8) : statusFault (setCause c st) = statusFault st :=
  getLsbD_setCause c st (by decide)

theorem statusReserved_setCause (c : BitVec 4) (st : BitVec 8) :
    statusReserved (setCause c st) = statusReserved st := by
  ext i hi
  simp [statusReserved, getLsbD_setCause c st (show 2 + i < 4 by omega)]

theorem statusCause_setCause (c : BitVec 4) (st : BitVec 8) : statusCause (setCause c st) = c :=
  BitVec.extractLsb'_append_eq_left

/-- `STATUS` after fault entry with cause `c` (R144). -/
def faultStatus (c : Cause) (st : BitVec 8) : BitVec 8 := setCause c.code (setFault true (setDone false st))

theorem statusDone_faultStatus (c : Cause) (st : BitVec 8) : statusDone (faultStatus c st) = false := by
  rw [faultStatus, statusDone_setCause, statusDone_setFault, statusDone_setDone]

theorem statusFault_faultStatus (c : Cause) (st : BitVec 8) : statusFault (faultStatus c st) = true := by
  rw [faultStatus, statusFault_setCause, statusFault_setFault]

theorem statusCause_faultStatus (c : Cause) (st : BitVec 8) : statusCause (faultStatus c st) = c.code :=
  statusCause_setCause _ _

theorem statusReserved_faultStatus (c : Cause) (st : BitVec 8) :
    statusReserved (faultStatus c st) = statusReserved st := by
  rw [faultStatus, statusReserved_setCause, statusReserved_setFault, statusReserved_setDone]

/-- R144: the whole state after fault entry. -/
theorem State.raiseFault_eq (s : State) (c : Cause) :
    s.raiseFault c = { s with status := faultStatus c s.status, phase := .faulted, rnd := none } := rfl

/-! ### Accesses in the faulted state -/

/-- `DIGEST` lies above the two input buffers (R31), so a byte stored in one of them is no byte of it. -/
theorem State.storeByte_digest {s : State} (h : s.mem.wf = true) {a : Nat} (v : Byte) (ha : a ≤ 0x7F) :
    (s.storeByte a v).digest = s.digest := by
  ext j hj : 1
  rw [State.digest_getElem, State.digest_getElem, State.storeByte_mem, Memory.read_write h, if_neg (by omega)]

/-- R146: while `FAULT` is 1 a write to `CMD` is ignored. -/
theorem step_of_write_cmd_of_fault {s : State} {v : Byte} {rest : List HostAccess}
    (hport : s.port = .write 0xA0 v :: rest) (hfault : statusFault s.status = true) :
    step s = .next (s.setPort rest) := by
  rw [step_of_write hport, memWrite_cmd, State.setPort_status, if_pos hfault]

/-- R35: while `FAULT` is 0 a write to `CMD` stores the byte and submits it. -/
theorem step_of_write_cmd {s : State} {v : Byte} {rest : List HostAccess}
    (hport : s.port = .write 0xA0 v :: rest) (hfault : statusFault s.status = false) :
    step s = submit v ((s.setPort rest).setCmd v) := by
  rw [step_of_write hport, memWrite_cmd, State.setPort_status, hfault]
  rfl

theorem step_of_reset {s : State} {rest : List HostAccess} (hport : s.port = .reset :: rest) :
    step s = .next (s.setPort rest).assertReset := by
  rw [step, hostStep, hport]
  rfl

/-- R146: in the faulted state every access but reset keeps the registers, the sequencer phase and the digest. -/
theorem step_keeps_of_fault {s t : State} (hwf : s.mem.wf = true) (hfault : statusFault s.status = true)
    (hreset : ∀ rest, s.port ≠ .reset :: rest) (h : step s = .next t) :
    t.status = s.status ∧ t.cmd = s.cmd ∧ t.phase = s.phase ∧ t.digest = s.digest := by
  obtain ⟨-, rfl⟩ | ⟨a, rest, -, rfl⟩ | ⟨rest, hport, -⟩ | ⟨a, v, rest, -, hinput, rfl⟩ | ⟨a, v, rest, -, -, -, rfl⟩ |
    ⟨v, rest, -, hunfaulted, -⟩ := step_eq_next h
  · exact ⟨rfl, rfl, rfl, rfl⟩
  · exact ⟨rfl, rfl, rfl, rfl⟩
  · exact absurd hport (hreset rest)
  · exact ⟨rfl, rfl, rfl, (s.setPort rest).storeByte_digest hwf v hinput⟩
  · exact ⟨rfl, rfl, rfl, rfl⟩
  · exact absurd hfault (by simp [hunfaulted])

/-! ### The obligations -/

/-- Settles O12: the new `STATUS` is `faultStatus`, whose four fields the laws above give. -/
theorem faultEntrySetsStatusAndPhaseOnly : Obligations.FaultEntrySetsStatusAndPhaseOnly := by
  intro s c
  refine ⟨faultStatus c s.status, s.raiseFault_eq c, statusDone_faultStatus c _, statusFault_faultStatus c _, ?cause,
    statusReserved_faultStatus c _⟩
  case cause => rw [statusCause_faultStatus]; cases c <;> rfl

/-- Settles O6: a reserved operation code is a quotient of the byte by 16 other than 1 and 2, so its submission is fault
entry with `ILLEGAL_OP`. -/
theorem reservedOperationCodeRaisesIllegalOp : Obligations.ReservedOperationCodeRaisesIllegalOp := by
  intro s v rest hport hfault hop
  refine ⟨faultStatus .illegalOp s.status, ?step, statusDone_faultStatus _ _, statusFault_faultStatus _ _,
    statusCause_faultStatus _ _, statusReserved_faultStatus _ _⟩
  case step =>
    rw [step_of_write_cmd hport hfault, submit_illegalOp (by omega) (by omega)]
    rfl

/-- Settles O13: both commands refuse a round count above 5 by fault entry with `ROUNDS_RANGE`. -/
theorem roundCountAboveFiveRaisesRoundsRange : Obligations.RoundCountAboveFiveRaisesRoundsRange := by
  intro n s hn
  refine ⟨faultStatus .roundsRange s.status, exec_of_five_lt (i := .h512 n) hn s, exec_of_five_lt (i := .h512k n) hn s,
    statusDone_faultStatus _ _, statusFault_faultStatus _ _, statusCause_faultStatus _ _,
    statusReserved_faultStatus _ _, ?unfaulted⟩
  case unfaulted => rintro (h | h) <;> rw [h] <;> rfl

/-- Settles O14: one law per kind of access, and the inversion of a step for the registers and the digest. -/
theorem faultStaysUntilReset : Obligations.FaultStaysUntilReset := by
  intro s rest hwf hfault
  refine ⟨fun v hport => step_of_write_cmd_of_fault hport hfault, fun a v hport hinput => ?input,
    fun a hport => ⟨memRead s a, step_of_read hport⟩, fun acc t hport hacc h => ?keeps, fun hport => ?reset⟩
  case input =>
    exact ⟨s.mem.write a.toNat v, (step_of_write hport).trans (memWrite_input _ v hinput),
      Memory.read_write hwf a.toNat v⟩
  case keeps =>
    refine step_keeps_of_fault hwf hfault (fun rest' hreset => hacc ?_) h
    rw [hport] at hreset
    exact (List.cons.inj hreset).1
  case reset =>
    refine ⟨_, step_of_reset hport, ?_, State.assertReset_phase _⟩
    rw [State.assertReset_status]
    rfl

end Sys2Proof.Machine
end

section
/-! Encoding (R50, R51): the command byte as a number, and the round trip through the decoder. -/

namespace Sys2Proof

/-! ### The byte of a command -/

/-- The operation code of a command (R51), as a number. -/
def Instr.opNumber : Instr → Nat
  | .h512 _ => 1
  | .h512k _ => 2

/-- The command byte as a number: the operation code above the 4 bits of the round count. -/
theorem encode_toNat (i : Instr) : (encode i).toNat = 16 * i.opNumber + i.rounds.toNat := by
  have concat (op n : BitVec 4) : (op ++ n).toNat = 16 * op.toNat + n.toNat := by
    rw [BitVec.toNat_append, ← Nat.shiftLeft_add_eq_or_of_lt n.isLt, Nat.shiftLeft_eq]
    omega
  cases i with
  | h512 n => exact concat opH512 n
  | h512k n => exact concat opH512K n

theorem encode_toNat_div (i : Instr) : (encode i).toNat / 16 = i.opNumber := by
  have hn := i.rounds.isLt
  rw [encode_toNat]
  omega

theorem nField_encode (i : Instr) : nField (encode i) = i.rounds := by
  have hn := i.rounds.isLt
  apply BitVec.eq_of_toNat_eq
  rw [nField_toNat, encode_toNat]
  omega

/-! ### The round trip -/

theorem decode_encode (i : Instr) : decode (encode i) = .ok i := by
  have hop := encode_toNat_div i
  have hn := nField_encode i
  cases i with
  | h512 n => rw [decode_h512 hop, hn]; rfl
  | h512k n => rw [decode_h512k hop, hn]; rfl

theorem encode_of_decode {b : Byte} {i : Instr} (h : decode b = .ok i) : encode i = b := by
  apply BitVec.eq_of_toNat_eq
  rw [encode_toNat]
  obtain ⟨hop, hdec⟩ | ⟨hop, hdec⟩ | ⟨-, -, hdec⟩ := decode_cases b
  · obtain rfl : Instr.h512 (nField b) = i := Except.ok.inj (hdec.symm.trans h)
    simp only [Instr.opNumber, Instr.rounds, nField_toNat]
    omega
  · obtain rfl : Instr.h512k (nField b) = i := Except.ok.inj (hdec.symm.trans h)
    simp only [Instr.opNumber, Instr.rounds, nField_toNat]
    omega
  · cases hdec.symm.trans h

/-! ### The word of the opcode table -/

/-- An 8-bit table word holds the command byte in its low 8 bits. -/
theorem commandByte_eight (w : Nat) : commandByte 8 w = BitVec.ofNat 8 w := by
  apply BitVec.eq_of_toNat_eq
  rw [commandByte, BitVec.toNat_ofNat, BitVec.toNat_ofNat, Nat.mod_mod]

theorem decodeTableWord_eq_some {nbits w : Nat} {i : Instr} :
    decodeTableWord nbits w = some i ↔ decode (commandByte nbits w) = .ok i := by
  unfold decodeTableWord
  cases decode (commandByte nbits w) <;> simp

/-- Settles O1: the byte of a command is `16 * OP + N`, and the decoder takes the quotient and the remainder by 16. -/
theorem decodeEncodeAgree : Obligations.DecodeEncodeAgree := by
  refine ⟨decode_encode, fun _ _ => encode_of_decode, fun i => ?tableWord⟩
  case tableWord =>
    rw [decodeTableWord_eq_some, commandByte_eight, BitVec.ofNat_toNat, BitVec.setWidth_eq]
    exact decode_encode i

end Sys2Proof
end

section
/-! Steps that place a command or nothing at all (R35, R50, R154), and the ROM as the address map reads it (R59, R92). -/

namespace Sys2Proof.Machine

/-! ### A command placed as the next access -/

/-- The step after `withFetchWord` takes the placed write; the accesses pending before it stay. -/
theorem step_withFetchWord {s : State} (w : Nat) (hfault : statusFault s.status = false) :
    step (s.withFetchWord 8 w) = submit (BitVec.ofNat 8 w) (s.setCmd (BitVec.ofNat 8 w)) := by
  rw [← commandByte_eight]
  exact step_of_write_cmd rfl hfault

/-- Settles O4: the write stores the byte in `CMD` and submits it, and a byte that decodes runs its command. -/
theorem stepRunsDecodedCommand : Obligations.StepRunsDecodedCommand := by
  intro s v rest i hport hfault hdec
  rw [step_of_write_cmd hport hfault, submit_of_ok hdec]
  rfl

/-- Settles O5: the placed access is the write of the word's low byte to `CMD`. -/
theorem stepRunsFetchedWord : Obligations.StepRunsFetchedWord := by
  intro s w i hfault hdec
  rw [decodeTableWord_eq_some, commandByte_eight] at hdec
  rw [step_withFetchWord w hfault, submit_of_ok hdec]
  rfl

/-! ### The idle step -/

theorem step_of_no_access {s : State} (h : s.port = []) : step s = .next s := by
  rw [step, hostStep, h]

/-- Settles O10: the step function looks at the head of the port first. -/
theorem stepWithoutAccessKeepsTheState : Obligations.StepWithoutAccessKeepsTheState :=
  fun _ => step_of_no_access

/-! ### Reset -/

theorem State.stateIn_of_mem_nil {s : State} (h : s.mem = []) : s.stateIn = Vector.replicate 64 0x00 := by
  ext j hj : 1
  rw [State.stateIn_getElem, h, Memory.read_nil, Vector.getElem_replicate]

theorem State.keyIn_of_mem_nil {s : State} (h : s.mem = []) : s.keyIn = Vector.replicate 64 0x00 := by
  ext j hj : 1
  rw [State.keyIn_getElem, h, Memory.read_nil, Vector.getElem_replicate]

theorem State.digest_of_mem_nil {s : State} (h : s.mem = []) : s.digest = Vector.replicate 32 0x00 := by
  ext j hj : 1
  rw [State.digest_getElem, h, Memory.read_nil, Vector.getElem_replicate]

/-- Settles O9: reset empties the list of stored bytes, so each of the three buffers reads `0x00` throughout. -/
theorem resetLeavesTheResetState : Obligations.ResetLeavesTheResetState := by
  intro s rest hport
  exact ⟨(s.setPort rest).assertReset, step_of_reset hport, State.stateIn_of_mem_nil rfl, State.keyIn_of_mem_nil rfl,
    State.digest_of_mem_nil rfl, rfl, rfl, rfl, rfl, rfl, rfl, rfl, rfl, rfl⟩

/-! ### The ROM -/

/-- Settles O42: the three fields are the digits of the address in the mixed base 8, 4, 2. -/
theorem romAddressIsTheConcatenation : Obligations.RomAddressIsTheConcatenation := by
  refine ⟨fun r i j => ⟨romAddr_toNat r i j, fun hr => ?bound⟩, fun r r' i i' j j' h => ?injective⟩
  case bound =>
    rw [romAddr_toNat]
    omega
  case injective =>
    have hsum := congrArg BitVec.toNat h
    rw [romAddr_toNat, romAddr_toNat] at hsum
    refine ⟨BitVec.eq_of_toNat_eq ?_, BitVec.eq_of_toNat_eq ?_, BitVec.eq_of_toNat_eq ?_⟩ <;> omega

theorem romRead_of_lt {a : BitVec 6} (h : a.toNat < rom.length) : romRead a = .ok rom[a.toNat] := by
  rw [romRead_eq, dif_pos h]

theorem romRead_of_ge {a : BitVec 6} (h : rom.length ≤ a.toNat) : romRead a = .error (.romAddress a) := by
  rw [romRead_eq, dif_neg (Nat.not_lt.mpr h)]

/-- Settles O43: the table has 40 entries, and a read answers exactly where the table does. -/
theorem romHasExactlyFortyEntries : Obligations.RomHasExactlyFortyEntries :=
  fun a => ⟨fun h => ⟨rom[a.toNat], romRead_of_lt h, List.getElem?_eq_getElem h⟩, romRead_of_ge⟩

end Sys2Proof.Machine
end

section
/-! The micro-operations on the working registers (R121, R122, R131), and every read of a register without value
(R19, R155). -/

namespace Sys2Proof.Machine

/-! ### With values -/

/-- Settles O26: KEYXOR answers `setS` of the exclusive-or with the lanes loaded from `KEY_IN`. -/
theorem keyXorAddsTheKey : Obligations.KeyXorAddsTheKey := by
  intro s S hS
  refine ⟨xorLanes S (loadLanes s.keyIn), keyXor_of_some hS, fun i k => ?byte⟩
  case byte =>
    change (xorLanes S (loadLanes s.keyIn))[i.val][k.val] = _
    rw [xorLanes_getElem, xorLane_getElem, loadLanes_getElem]
    rfl

/-- Settles O27: SAVE answers `setT` of the working lanes. -/
theorem saveCopiesTheWorkingLanes : Obligations.SaveCopiesTheWorkingLanes :=
  fun _ _ hS => save_of_some hS

/-- Settles O28: FFWD answers `setS` of the exclusive-or of the two lane registers. -/
theorem feedForwardAddsTheSavedLanes : Obligations.FeedForwardAddsTheSavedLanes := by
  intro s S T hS hT
  refine ⟨xorLanes S T, ffwd_of_some hS hT, fun i k => ?byte⟩
  case byte =>
    change (xorLanes S T)[i.val][k.val] = _
    rw [xorLanes_getElem, xorLane_getElem]
    rfl

/-! ### Without a value -/

theorem withS_none {s : State} (h : s.laneS = none) (f : Lanes → Result) :
    withS s f = .fault (.noValue .laneS) := by
  rw [withS, h]

theorem withT_none {s : State} (h : s.laneT = none) (f : Lanes → Result) :
    withT s f = .fault (.noValue .laneT) := by
  rw [withT, h]

theorem withRnd_none {s : State} (h : s.rnd = none) (f : BitVec 3 → Result) :
    withRnd s f = .fault (.noValue .rnd) := by
  rw [withRnd, h]

theorem withOpk_none {s : State} (h : s.opk = none) (f : Bool → Result) :
    withOpk s f = .fault (.noValue .opk) := by
  rw [withOpk, h]

theorem withNl_none {s : State} (h : s.nl = none) (f : BitVec 3 → Result) :
    withNl s f = .fault (.noValue .nl) := by
  rw [withNl, h]

/-- The sequencer's MIX reads `S` first, and `RND` to find the next round. -/
theorem microStep_mix_of_rnd_none {s : State} {S : Lanes} (hp : s.phase = .mix) (hS : s.laneS = some S)
    (hr : s.rnd = none) : microStep s = .fault (.noValue .rnd) := by
  rw [microStep, hp]
  change andThen _ (mix s) = _
  rw [mix_of_some hS, andThen_next, withRnd_none (by rw [State.setS_rnd, hr])]

/-! ### A round index above 4 -/

theorem romAddr_zero_zero (r : BitVec 3) : romAddr r 0 0 = BitVec.ofNat 6 (8 * r.toNat) := by
  have hr := r.isLt
  apply BitVec.eq_of_toNat_eq
  rw [romAddr_toNat, BitVec.toNat_ofNat]
  change 8 * r.toNat + 2 * 0 + 0 = _
  omega

/-- The first ROM read of an AES step is that of lane 0 (log entry 12); from round 5 on it has no entry. -/
theorem aes2Lanes_of_ge {r : BitVec 3} (hr : 5 ≤ r.toNat) (S : Lanes) :
    aes2Lanes r S = .error (.romAddress (BitVec.ofNat 6 (8 * r.toNat))) := by
  have hread : romRead (romAddr r 0 0) = .error (.romAddress (romAddr r 0 0)) := by
    apply romRead_of_ge
    rw [rom_length, romAddr_toNat, Config.rcDepth]
    omega
  rw [aes2Lanes, aes2Lane, hread, romAddr_zero_zero]
  rfl

theorem aes2_of_ge {s : State} {S : Lanes} {r : BitVec 3} (hS : s.laneS = some S) (hr : s.rnd = some r)
    (h5 : 5 ≤ r.toNat) : aes2 s = .fault (.romAddress (BitVec.ofNat 6 (8 * r.toNat))) := by
  rw [aes2, withRnd_some hr, withS_some hS, aes2Lanes_of_ge h5]

/-- Settles O32: each operation reads the register that the clause names through its `with` function. -/
theorem readingNoValueIsAModelError : Obligations.ReadingNoValueIsAModelError := by
  refine ⟨fun s hS => ?noLanes, fun s r hr hS => ?aesNoLanes, fun s S hS hT => ?ffwdNoSaved, fun s hr => ?aesNoRound,
    fun s S hp hS hr => microStep_mix_of_rnd_none hp hS hr, fun s ho => withOpk_none ho _,
    fun s r hn => ⟨withNl_none hn _, withNl_none hn _⟩, fun s S r hS hr h5 => aes2_of_ge hS hr h5⟩
  case noLanes =>
    exact ⟨withS_none hS _, withS_none hS _, withS_none hS _, withS_none hS _, withS_none hS _⟩
  case aesNoLanes => rw [aes2, withRnd_some hr, withS_none hS]
  case ffwdNoSaved => rw [ffwd, withS_some hS, withT_none hT]
  case aesNoRound => rw [aes2, withRnd_none hr]

end Sys2Proof.Machine
end

section
/-! What the two commands do to the state (R120, R130, R141): the two outcomes they share, the frame of a finished
operation, and the laws of the digest (R123 to R135). -/

namespace Sys2Proof.Machine

/-! ### The two outcomes of a command -/

/-- The block that a command hashes: `STATE_IN`, with `KEY_IN` added by the keyed command. -/
def commandInput : Instr → State → Block
  | .h512 _, s => s.stateIn
  | .h512k _, s => xorBlock s.stateIn s.keyIn

/-- The digest that an accepted command computes (R123, R133). -/
def commandDigest (i : Instr) (s : State) (h : i.rounds.toNat ≤ Config.maxRounds) : Digest :=
  haraka512 (commandInput i s) i.rounds.toNat h

/-- An accepted command finishes from every state. -/
theorem exec_of_le {i : Instr} (h : i.rounds.toNat ≤ Config.maxRounds) (s : State) :
    exec i s = .next (s.finish (commandDigest i s h)) := by
  cases i with
  | h512 n => exact exec_h512_of_le h s
  | h512k n => exact exec_h512k_of_le h s

/-- Either the round count is accepted and the operation finishes, or `ROUNDS_RANGE` is raised. -/
theorem exec_cases (i : Instr) (s : State) :
    (∃ h : i.rounds.toNat ≤ Config.maxRounds, exec i s = .next (s.finish (commandDigest i s h))) ∨
    (5 < i.rounds.toNat ∧ exec i s = .next (s.raiseFault .roundsRange)) := by
  by_cases h : i.rounds.toNat ≤ Config.maxRounds
  · exact .inl ⟨h, exec_of_le h s⟩
  · exact .inr ⟨Nat.lt_of_not_le h, exec_of_five_lt (Nat.lt_of_not_le h) s⟩

/-- The same two outcomes, read off the state that a command answers. -/
theorem exec_eq_next {i : Instr} {s t : State} (h : exec i s = .next t) :
    (∃ hle : i.rounds.toNat ≤ Config.maxRounds, t = s.finish (commandDigest i s hle)) ∨
    (5 < i.rounds.toNat ∧ t = s.raiseFault .roundsRange) := by
  obtain ⟨hle, hexec⟩ | ⟨hlt, hexec⟩ := exec_cases i s
  · exact .inl ⟨hle, (Host.Outcome.next.inj (hexec.symm.trans h)).symm⟩
  · exact .inr ⟨hlt, (Host.Outcome.next.inj (hexec.symm.trans h)).symm⟩

/-! ### The frame of a finished operation -/

section
variable (s : State) (d : Digest)

@[simp] theorem State.finish_mem : (s.finish d).mem = (s.storeDigest d).mem := rfl
@[simp] theorem State.finish_cmd : (s.finish d).cmd = s.cmd := rfl
@[simp] theorem State.finish_status : (s.finish d).status = Machine.setDone true s.status := rfl
@[simp] theorem State.finish_laneS : (s.finish d).laneS = none := rfl
@[simp] theorem State.finish_laneT : (s.finish d).laneT = none := rfl
@[simp] theorem State.finish_phase : (s.finish d).phase = .idle := rfl
@[simp] theorem State.finish_rnd : (s.finish d).rnd = none := rfl
@[simp] theorem State.finish_opk : (s.finish d).opk = none := rfl
@[simp] theorem State.finish_nl : (s.finish d).nl = none := rfl
@[simp] theorem State.finish_port : (s.finish d).port = s.port := rfl
@[simp] theorem State.finish_replies : (s.finish d).replies = s.replies := rfl

/-- For any digest, so that comparing the two states evaluates no byte of it. -/
theorem State.finish_eq :
    s.finish d = { s with
      mem := (s.finish d).mem, status := Machine.setDone true s.status, phase := .idle, laneS := none,
      laneT := none, rnd := none, opk := none, nl := none } := rfl

end

theorem State.finish_wf {s : State} (h : s.mem.wf = true) (d : Digest) : (s.finish d).mem.wf = true :=
  State.storeDigest_wf h d

/-- The two input buffers lie below `DIGEST` (R31). -/
theorem State.finish_stateIn {s : State} (h : s.mem.wf = true) (d : Digest) : (s.finish d).stateIn = s.stateIn := by
  ext j hj : 1
  rw [State.stateIn_getElem, State.stateIn_getElem, State.finish_mem, State.storeDigest_read_outside h d (by omega)]

theorem State.finish_keyIn {s : State} (h : s.mem.wf = true) (d : Digest) : (s.finish d).keyIn = s.keyIn := by
  ext j hj : 1
  rw [State.keyIn_getElem, State.keyIn_getElem, State.finish_mem, State.storeDigest_read_outside h d (by omega)]

/-- A digest stored a second time changes no byte, so the canonical memory stays the same list. -/
theorem State.storeDigest_storeDigest {s t : State} (h : s.mem.wf = true) (d : Digest)
    (ht : t.mem = (s.storeDigest d).mem) : (t.storeDigest d).mem = t.mem := by
  have htwf : t.mem.wf = true := by rw [ht]; exact State.storeDigest_wf h d
  refine Memory.eq_of_read_eq (State.storeDigest_wf htwf d) htwf fun a => ?_
  rw [State.storeDigest_read htwf, ht, State.storeDigest_read h]
  split <;> rfl

theorem State.finish_finish {s : State} (h : s.mem.wf = true) (d : Digest) :
    (s.finish d).finish d = s.finish d := by
  have hmem : ((s.finish d).finish d).mem = (s.finish d).mem := State.storeDigest_storeDigest h d rfl
  have hstatus : ((s.finish d).finish d).status = (s.finish d).status := by simp
  rw [State.finish_eq (s.finish d), hmem, ← State.finish_status, hstatus]
  rfl

/-- From the two unfaulted values of `STATUS` a finished operation leaves `0x01` (R16). -/
theorem setDone_true_of_unfaulted {st : BitVec 8} (h : st = 0x00 ∨ st = 0x01) : setDone true st = 0x01 := by
  obtain rfl | rfl := h <;> rfl

/-- A finished operation as the two commands' statements say it: for any digest `d`, the state with the bytes of `d` at
`0x80`..`0x9F`. -/
theorem State.finish_writes {s : State} (h : s.mem.wf = true) (d : Digest) :
    ∃ m : Memory,
      (.next (s.finish d) : Result) = .next { s with
        mem := m, status := Machine.setDone true s.status, phase := .idle, laneS := none, laneT := none, rnd := none,
        opk := none, nl := none } ∧
      m.wf = true ∧
      (∀ a : Nat, m.read a = if ha : 0x80 ≤ a ∧ a < 0xA0 then d[a - 0x80] else s.mem.read a) ∧
      (s.status = 0x00 ∨ s.status = 0x01 → Machine.setDone true s.status = 0x01) :=
  ⟨(s.finish d).mem, congrArg _ (s.finish_eq d), State.finish_wf h d, State.storeDigest_read h d,
    setDone_true_of_unfaulted⟩

/-- Settles O15: the command answers `finish` with the digest of `STATE_IN`. -/
theorem h512WritesHaraka512OfTheInput : Obligations.H512WritesHaraka512OfTheInput := by
  intro n h s hwf
  rw [exec_h512_of_le h s]
  exact State.finish_writes hwf _

/-- Settles O16: as for `H512 n`, and `Haraka512K` is by definition `Haraka512` of the exclusive-or. -/
theorem h512KWritesHaraka512OfTheKeyedInput : Obligations.H512KWritesHaraka512OfTheKeyedInput := by
  intro n h s hwf
  rw [exec_h512k_of_le h s, haraka512K]
  exact State.finish_writes hwf _

/-- Settles O17: a finished operation stores a digest, and a refused command stores nothing. -/
theorem commandsChangeNoInputByte : Obligations.CommandsChangeNoInputByte := by
  intro i s t hwf h
  obtain ⟨hle, rfl⟩ | ⟨hlt, rfl⟩ := exec_eq_next h
  case inl =>
    generalize commandDigest i s hle = d
    refine ⟨State.finish_stateIn hwf _, State.finish_keyIn hwf _, rfl, rfl, rfl, statusReserved_setDone _ _,
      fun a ha => State.storeDigest_read_outside hwf _ ha, fun hill => ?_⟩
    exact absurd (i.wellFormed_iff.mpr hle) (by simp [hill])
  case inr =>
    exact ⟨State.stateIn_congr rfl, State.keyIn_congr rfl, rfl, rfl, rfl, statusReserved_faultStatus _ _,
      fun _ _ => rfl, fun _ => rfl⟩

/-! ### The same command again -/

theorem faultStatus_faultStatus (c : Cause) (st : BitVec 8) :
    faultStatus c (faultStatus c st) = faultStatus c st := by
  cases c <;> revert st <;> decide

theorem State.raiseFault_raiseFault (s : State) (c : Cause) : (s.raiseFault c).raiseFault c = s.raiseFault c := by
  simp only [State.raiseFault_eq, faultStatus_faultStatus]

/-- The input of a command is not touched by its digest. -/
theorem commandInput_finish (i : Instr) {s : State} (h : s.mem.wf = true) (d : Digest) :
    commandInput i (s.finish d) = commandInput i s := by
  cases i with
  | h512 n => exact State.finish_stateIn h d
  | h512k n => exact congrArg₂ xorBlock (State.finish_stateIn h d) (State.finish_keyIn h d)

/-- Settles O23: the second run computes the digest that already stands there; a refusal writes the fields that the
first one wrote. -/
theorem repeatedCommandLeavesTheSameState : Obligations.RepeatedCommandLeavesTheSameState := by
  intro i s t hwf h
  obtain ⟨hle, rfl⟩ | ⟨hlt, rfl⟩ := exec_eq_next h
  case inl =>
    have hdigest : commandDigest i (s.finish (commandDigest i s hle)) hle = commandDigest i s hle :=
      congrArg (haraka512 · i.rounds.toNat hle) (commandInput_finish i hwf _)
    rw [exec_of_le hle, hdigest, State.finish_finish hwf]
  case inr => rw [exec_of_five_lt hlt, State.raiseFault_raiseFault]

/-! ### The digest as a function of the exclusive-or of state and key -/

theorem xorBlock_comm (A B : Block) : xorBlock A B = xorBlock B A := by
  ext j hj : 1
  simp only [xorBlock_getElem, BitVec.xor_comm]

/-- Two runs whose inputs have the same exclusive-or both finish, with the same digest (R133). -/
theorem exec_h512k_digest_eq {n : BitVec 4} {s s' : State} (h : n.toNat ≤ Config.maxRounds) (hwf : s.mem.wf = true)
    (hwf' : s'.mem.wf = true) (hxor : xorBlock s.stateIn s.keyIn = xorBlock s'.stateIn s'.keyIn) :
    ∃ t t' : State, exec (.h512k n) s = .next t ∧ exec (.h512k n) s' = .next t' ∧ t.digest = t'.digest := by
  refine ⟨_, _, exec_h512k_of_le h s, exec_h512k_of_le h s', ?_⟩
  rw [State.finish_digest hwf, State.finish_digest hwf', haraka512K, haraka512K, hxor]

/-- Settles O20: swapping the two operands leaves their exclusive-or as it is. -/
theorem h512KDigestDependsOnTheExclusiveOrOnly : Obligations.H512KDigestDependsOnTheExclusiveOrOnly := by
  refine ⟨fun n s s' => exec_h512k_digest_eq, fun n s s' h hwf hwf' hstate hkey => ?swapped⟩
  case swapped =>
    refine exec_h512k_digest_eq h hwf hwf' ?_
    rw [hstate, hkey, xorBlock_comm]

/-! ### Truncation and the feed-forward -/

/-- Truncation selects bytes, so it commutes with the exclusive-or. -/
theorem truncate_xorLanes (A B : Lanes) (t : Nat) (ht : t < 32) :
    (truncate (xorLanes A B))[t] = (truncate A)[t] ^^^ (truncate B)[t] := by
  obtain ⟨i, j, rfl⟩ : ∃ (i : Fin 4) (j : Fin 8), t = 8 * i.val + j.val :=
    ⟨⟨t / 8, by omega⟩, ⟨t % 8, by omega⟩, by simp only; omega⟩
  rw [truncate_byte, truncate_byte, truncate_byte]
  match i with
  | 0 => simp only [selectedSegments_lane0, xorLanes_getElem, xorLane_getElem]
  | 1 => simp only [selectedSegments_lane1, xorLanes_getElem, xorLane_getElem]
  | 2 => simp only [selectedSegments_lane2, xorLanes_getElem, xorLane_getElem]
  | 3 => simp only [selectedSegments_lane3, xorLanes_getElem, xorLane_getElem]

/-- Byte `t` of the digest: the last round's byte and the input byte at the selected position (R122, R123). -/
theorem haraka512_getElem (X : Block) (n : Nat) (h : n ≤ Config.maxRounds) (t : Nat) (ht : t < 32) :
    (haraka512 X n h)[t] = (truncate (roundsf n h (loadLanes X)))[t] ^^^ (truncate (loadLanes X))[t] :=
  truncate_xorLanes _ _ t ht

/-- With no round between them, the saved lanes cancel the working lanes. -/
theorem haraka512_zero (X : Block) : haraka512 X 0 (Nat.zero_le _) = Vector.replicate 32 0x00 := by
  ext t ht : 1
  rw [haraka512_getElem, roundsf, Vector.getElem_replicate]
  exact BitVec.xor_self

/-- Settles O22: both commands finish with the digest of zero rounds of their input. -/
theorem zeroRoundsWriteAZeroDigest : Obligations.ZeroRoundsWriteAZeroDigest := by
  intro s hwf
  have finished (i : Instr) (hi : i.rounds = 0) :
      ∃ t, exec i s = .next t ∧ t.digest = Vector.replicate 32 0x00 ∧ statusDone t.status = true := by
    have hle : i.rounds.toNat ≤ Config.maxRounds := by rw [hi]; exact Nat.zero_le _
    have hzero : commandDigest i s hle = Vector.replicate 32 0x00 := by
      rw [← haraka512_zero (commandInput i s)]
      unfold commandDigest
      congr 1
      rw [hi]
      rfl
    refine ⟨_, exec_of_le hle s, ?_, statusDone_setDone _ _⟩
    rw [State.finish_digest hwf, hzero]
  exact ⟨finished (.h512 0) rfl, finished (.h512k 0) rfl⟩

/-- Settles O24: both digests are the same rounds, fed forward with two inputs that differ by the key. -/
theorem feedForwardTargetsTheKeyedState : Obligations.FeedForwardTargetsTheKeyedState := by
  intro X K n h t ht
  rw [haraka512K, haraka512_getElem, truncate_xorLanes _ _ t ht, loadLanes_xorBlock, truncate_xorLanes _ _ t ht,
    ← BitVec.xor_assoc, BitVec.xor_assoc _ _ (truncate (loadLanes K))[t], BitVec.xor_self, BitVec.xor_zero]

end Sys2Proof.Machine
end

section
/-! What every step keeps (R16, R36, R112, R155): a step always answers a next state, the canonical form and the good
states are kept, and `DIGEST` changes only by reset or an accepted command. -/

namespace Sys2Proof.Machine

/-! ### What a submission can do -/

/-- A submission is fault entry, or the end of an operation that a well-formed command names. -/
theorem submit_cases (b : Byte) (s : State) :
    (∃ c, submit b s = .next (s.raiseFault c)) ∨
    (∃ i, ∃ h : i.rounds.toNat ≤ Config.maxRounds, decode b = .ok i ∧
      submit b s = .next (s.finish (commandDigest i s h))) := by
  cases hdec : decode b with
  | error e =>
    obtain ⟨op⟩ := e
    exact .inl ⟨.illegalOp, submit_of_error hdec s⟩
  | ok i =>
    rw [submit_of_ok hdec]
    obtain ⟨h, hexec⟩ | ⟨-, hexec⟩ := exec_cases i s
    · exact .inr ⟨i, h, rfl, hexec⟩
    · exact .inl ⟨.roundsRange, hexec⟩

/-- The same two outcomes, read off the state that a submission answers. -/
theorem submit_eq_next {b : Byte} {s t : State} (h : submit b s = .next t) :
    (∃ c, t = s.raiseFault c) ∨
    (∃ i, ∃ hle : i.rounds.toNat ≤ Config.maxRounds, decode b = .ok i ∧ t = s.finish (commandDigest i s hle)) := by
  obtain ⟨c, hsub⟩ | ⟨i, hle, hdec, hsub⟩ := submit_cases b s
  · exact .inl ⟨c, (Host.Outcome.next.inj (hsub.symm.trans h)).symm⟩
  · exact .inr ⟨i, hle, hdec, (Host.Outcome.next.inj (hsub.symm.trans h)).symm⟩

/-! ### Progress -/

theorem submit_answersNext (b : Byte) (s : State) : ∃ t, submit b s = .next t := by
  obtain ⟨c, hsub⟩ | ⟨i, hle, -, hsub⟩ := submit_cases b s
  · exact ⟨_, hsub⟩
  · exact ⟨_, hsub⟩

theorem memWrite_answersNext (s : State) (a : BitVec 8) (v : Byte) : ∃ t, memWrite s a v = .next t := by
  by_cases hinput : a.toNat ≤ 0x7F
  · exact ⟨_, memWrite_input s v hinput⟩
  by_cases hcmd : a = 0xA0
  · rw [hcmd, memWrite_cmd]
    split
    · exact ⟨s, rfl⟩
    · exact submit_answersNext v _
  · exact ⟨s, memWrite_ignored s v (by omega) hcmd⟩

/-- Settles O11: one case per kind of access at the head of the port; only a command could stop, and both finish or
fault. -/
theorem everyStepAnswersNext : Obligations.EveryStepAnswersNext := by
  intro s
  match hport : s.port with
  | [] => exact ⟨s, step_of_no_access hport⟩
  | .read a :: rest => exact ⟨_, step_of_read hport⟩
  | .write a v :: rest =>
    obtain ⟨t, ht⟩ := memWrite_answersNext (s.setPort rest) a v
    exact ⟨t, (step_of_write hport).trans ht⟩
  | .reset :: rest => exact ⟨_, step_of_reset hport⟩

/-! ### The canonical form -/

theorem submit_keeps_wf {b : Byte} {s t : State} (hwf : s.mem.wf = true) (h : submit b s = .next t) :
    t.mem.wf = true := by
  obtain ⟨c, rfl⟩ | ⟨i, hle, -, rfl⟩ := submit_eq_next h
  · exact hwf
  · exact State.finish_wf hwf _

/-- Settles O49: a host write stores below `0x80` and a command stores a digest; every other access stores nothing or
empties the list. -/
theorem everyStepKeepsMemoryCanonical : Obligations.EveryStepKeepsMemoryCanonical := by
  intro s t hwf h
  obtain ⟨-, rfl⟩ | ⟨a, rest, -, rfl⟩ | ⟨rest, -, rfl⟩ | ⟨a, v, rest, -, hinput, rfl⟩ | ⟨a, v, rest, -, -, -, rfl⟩ |
    ⟨v, rest, -, -, hsub⟩ := step_eq_next h
  · exact hwf
  · exact hwf
  · rfl
  · exact Memory.wf_write hwf _ v (by omega)
  · exact hwf
  · exact submit_keeps_wf (s := (s.setPort rest).setCmd v) hwf hsub

/-! ### The lifetime of the digest -/

/-- Settles O50: of the accesses that are no reset, only a finished command stores at `0x80` and above. -/
theorem digestChangesOnlyByAcceptedCommandOrReset : Obligations.DigestChangesOnlyByAcceptedCommandOrReset := by
  intro s t hwf h hne
  obtain ⟨-, rfl⟩ | ⟨a, rest, -, rfl⟩ | ⟨rest, hport, -⟩ | ⟨a, v, rest, -, hinput, rfl⟩ | ⟨a, v, rest, -, -, -, rfl⟩ |
    ⟨v, rest, hport, hfault, hsub⟩ := step_eq_next h
  · exact absurd rfl hne
  · exact absurd rfl hne
  · exact .inl ⟨rest, hport⟩
  · exact absurd ((s.setPort rest).storeByte_digest hwf v hinput) hne
  · exact absurd rfl hne
  · obtain ⟨c, rfl⟩ | ⟨i, hle, hdec, -⟩ := submit_eq_next hsub
    · exact absurd rfl hne
    · exact .inr ⟨v, rest, i, hport, hfault, hdec, i.wellFormed_iff.mpr hle⟩

/-! ### Good states -/

theorem State.statusLegal_iff (s : State) :
    s.statusLegal = true ↔ s.status = 0x00 ∨ s.status = 0x01 ∨ s.status = 0x12 ∨ s.status = 0x22 := by
  simp [State.statusLegal, or_assoc]

theorem State.phaseAgrees_of_idle {s : State} (hphase : s.phase = .idle) (hfault : statusFault s.status = false) :
    s.phaseAgrees = true := by
  simp [State.phaseAgrees, hphase, hfault]

theorem State.phaseAgrees_of_faulted {s : State} (hphase : s.phase = .faulted) (hfault : statusFault s.status = true) :
    s.phaseAgrees = true := by
  simp [State.phaseAgrees, hphase, hfault]

theorem State.noWorkingValues_iff (s : State) :
    s.noWorkingValues = true ↔
      s.laneS = none ∧ s.laneT = none ∧ s.rnd = none ∧ s.opk = none ∧ s.nl = none := by
  simp [State.noWorkingValues, and_assoc]

theorem State.digestUntouched_iff (s : State) :
    s.digestUntouched = true ↔ (s.status = 0x00 → s.digest = Vector.replicate 32 0x00) := by
  simp [State.digestUntouched, imp_iff_not_or]

theorem State.cmdAgrees_of_error {s : State} {e : DecodeError} (hdec : decode s.cmd = .error e)
    (hst : s.status = 0x22) : s.cmdAgrees = true := by
  simp [State.cmdAgrees, hdec, hst]

theorem State.cmdAgrees_of_refused {s : State} {i : Instr} (hdec : decode s.cmd = .ok i)
    (hn : 5 < i.rounds.toNat) (hst : s.status = 0x12) : s.cmdAgrees = true := by
  have hill : ¬ i.wellFormed = true := by
    rw [i.wellFormed_iff]
    omega
  simp [State.cmdAgrees, hdec, hill, hst]

theorem State.cmdAgrees_of_finished {s : State} {i : Instr} (hdec : decode s.cmd = .ok i)
    (hn : i.rounds.toNat ≤ 5) (hst : s.status = 0x01) : s.cmdAgrees = true := by
  simp [State.cmdAgrees, hdec, i.wellFormed_iff.mpr hn, hst]

theorem State.cmdAgrees_of_reset {s : State} (hcmd : s.cmd = 0x00) (hst : s.status = 0x00) :
    s.cmdAgrees = true := by
  have hdec : decode 0x00 = .error (.illegalOp 0x0) := rfl
  simp only [State.cmdAgrees, hcmd, hst, hdec]
  rfl

theorem State.Inv.mem_wf {s : State} (h : s.Inv) : s.mem.wf = true := h.1

/-- A good state with `FAULT` = 0 holds one of the two unfaulted values of `STATUS` (R16). -/
theorem State.Inv.status_of_unfaulted {s : State} (h : s.Inv) (hfault : statusFault s.status = false) :
    s.status = 0x00 ∨ s.status = 0x01 := by
  obtain ⟨-, hlegal, -⟩ := h
  obtain hst | hst | hst | hst := s.statusLegal_iff.mp hlegal
  · exact .inl hst
  · exact .inr hst
  · rw [hst] at hfault; cases hfault
  · rw [hst] at hfault; cases hfault

/-- Whether a state is good does not depend on the two ends of the host port. -/
theorem State.inv_of_engine_eq {s t : State} (h : s.Inv) (hport : t = { s with port := t.port, replies := t.replies }) :
    t.Inv := by
  rw [hport]
  exact h

theorem State.inv_assertReset (s : State) : s.assertReset.Inv :=
  ⟨rfl, (State.statusLegal_iff _).mpr (.inl rfl),
    State.phaseAgrees_of_idle rfl (by rw [State.assertReset_status]; rfl), rfl, State.cmdAgrees_of_reset rfl rfl,
    (State.digestUntouched_iff _).mpr fun _ => State.digest_of_mem_nil rfl⟩

/-- Settles O47: the reset state is what reset makes of any state with both ends of the port empty. -/
theorem resetStateIsGood : Obligations.ResetStateIsGood := State.reset.inv_assertReset

/-- A byte stored in an input buffer leaves the registers and `DIGEST` as they are. -/
theorem State.inv_storeByte {s : State} (h : s.Inv) {a : Nat} (v : Byte) (ha : a ≤ 0x7F) : (s.storeByte a v).Inv := by
  obtain ⟨hwf, hlegal, hphase, hwork, hcmd, hdigest⟩ := h
  refine ⟨Memory.wf_write hwf a v (by omega), hlegal, hphase, hwork, hcmd, ?_⟩
  rw [State.digestUntouched_iff, State.storeByte_digest hwf v ha]
  exact s.digestUntouched_iff.mp hdigest

/-- `STATUS` after a fault taken from an unfaulted good state (R140): `CAUSE` above the bit `FAULT`. -/
theorem faultStatus_of_unfaulted {st : BitVec 8} (h : st = 0x00 ∨ st = 0x01) (c : Cause) :
    faultStatus c st = c.code ++ 0x2#4 := by
  obtain rfl | rfl := h <;> cases c <;> rfl

theorem State.noWorkingValues_raiseFault {s : State} (h : s.noWorkingValues = true) (c : Cause) :
    (s.raiseFault c).noWorkingValues = true := by
  obtain ⟨hS, hT, -, hopk, hnl⟩ := s.noWorkingValues_iff.mp h
  exact (State.noWorkingValues_iff _).mpr ⟨hS, hT, rfl, hopk, hnl⟩

/-- Fault entry from an unfaulted state gives a good state where `CMD` agrees with the cause. -/
theorem State.inv_raiseFault {s : State} (hwf : s.mem.wf = true) (hst : s.status = 0x00 ∨ s.status = 0x01)
    (hwork : s.noWorkingValues = true) {c : Cause} (hcmd : (s.raiseFault c).cmdAgrees = true) :
    (s.raiseFault c).Inv := by
  have hstatus : (s.raiseFault c).status = c.code ++ 0x2#4 := faultStatus_of_unfaulted hst c
  refine ⟨hwf, ?_, State.phaseAgrees_of_faulted rfl (statusFault_faultStatus c _),
    State.noWorkingValues_raiseFault hwork c, hcmd, ?_⟩
  · rw [State.statusLegal_iff, hstatus]
    cases c <;> decide
  · rw [State.digestUntouched_iff, hstatus]
    intro hzero
    cases c <;> cases hzero

/-- A finished operation gives a good state where `CMD` holds a well-formed command. -/
theorem State.inv_finish {s : State} (hwf : s.mem.wf = true) (hst : s.status = 0x00 ∨ s.status = 0x01) {i : Instr}
    (hdec : decode s.cmd = .ok i) (hle : i.rounds.toNat ≤ Config.maxRounds) (d : Digest) : (s.finish d).Inv := by
  have hstatus : (s.finish d).status = 0x01 := setDone_true_of_unfaulted hst
  refine ⟨State.finish_wf hwf d, (State.statusLegal_iff _).mpr (.inr (.inl hstatus)),
    State.phaseAgrees_of_idle rfl (by rw [hstatus]; rfl), rfl, State.cmdAgrees_of_finished hdec hle hstatus, ?_⟩
  · rw [State.digestUntouched_iff, hstatus]
    exact fun hzero => by cases hzero

/-- The submission of the byte in `CMD` gives a good state. -/
theorem State.inv_submit {s t : State} (hwf : s.mem.wf = true) (hst : s.status = 0x00 ∨ s.status = 0x01)
    (hwork : s.noWorkingValues = true) (hsub : submit s.cmd s = .next t) : t.Inv := by
  cases hdec : decode s.cmd with
  | error e =>
    obtain ⟨op⟩ := e
    have hraise := submit_of_error hdec s
    obtain rfl : s.raiseFault .illegalOp = t := Host.Outcome.next.inj (hraise.symm.trans hsub)
    exact State.inv_raiseFault hwf hst hwork
      (State.cmdAgrees_of_error hdec (faultStatus_of_unfaulted hst .illegalOp))
  | ok i =>
    rw [submit_of_ok hdec] at hsub
    obtain ⟨hle, rfl⟩ | ⟨hlt, rfl⟩ := exec_eq_next hsub
    · exact State.inv_finish hwf hst hdec hle _
    · exact State.inv_raiseFault hwf hst hwork
        (State.cmdAgrees_of_refused hdec hlt (faultStatus_of_unfaulted hst .roundsRange))

/-- Settles O48: one preservation law for each kind of access. -/
theorem everyStepKeepsGoodStates : Obligations.EveryStepKeepsGoodStates := by
  intro s t hinv h
  have hst := hinv.status_of_unfaulted
  have hpop (rest : List HostAccess) : (s.setPort rest).Inv := State.inv_of_engine_eq hinv rfl
  obtain ⟨-, rfl⟩ | ⟨a, rest, -, rfl⟩ | ⟨rest, -, rfl⟩ | ⟨a, v, rest, -, hinput, rfl⟩ | ⟨a, v, rest, -, -, -, rfl⟩ |
    ⟨v, rest, -, hfault, hsub⟩ := step_eq_next h
  · exact hinv
  · exact State.inv_of_engine_eq (hpop rest) rfl
  · exact State.inv_assertReset _
  · exact State.inv_storeByte (hpop rest) v hinput
  · exact hpop rest
  · obtain ⟨hwf, -, -, hwork, -, -⟩ := hinv
    exact State.inv_submit (s := (s.setPort rest).setCmd v) hwf (hst hfault) hwork hsub

/-! ### A command write, whole -/

/-- The byte of a well-formed command that decodes from it: `0x10 + n` or `0x20 + n`. -/
theorem commandDigest_of_decode {v : Byte} {i : Instr} (hdec : decode v = .ok i) (s : State)
    (hle : i.rounds.toNat ≤ Config.maxRounds) :
    v.toNat = 0x10 + i.rounds.toNat ∧ commandDigest i s hle = haraka512 s.stateIn i.rounds.toNat hle ∨
    v.toNat = 0x20 + i.rounds.toNat ∧
      commandDigest i s hle = haraka512 (xorBlock s.stateIn s.keyIn) i.rounds.toNat hle := by
  have hbyte := encode_toNat i
  rw [encode_of_decode hdec] at hbyte
  cases i with
  | h512 n => exact .inl ⟨hbyte, rfl⟩
  | h512k n => exact .inr ⟨hbyte, rfl⟩

/-- Settles O18: the submission finishes with the digest of the command that the byte names, or takes a fault. -/
theorem commandWriteFinishesOrFaults : Obligations.CommandWriteFinishesOrFaults := by
  intro s v rest hinv hfault hport
  have hst := hinv.status_of_unfaulted hfault
  obtain ⟨hwf, -⟩ := hinv
  rw [step_of_write_cmd hport hfault]
  obtain ⟨c, hsub⟩ | ⟨i, hle, hdec, hsub⟩ := submit_cases v ((s.setPort rest).setCmd v)
  case inl =>
    exact ⟨_, hsub, .inr ⟨statusFault_faultStatus c _, statusDone_faultStatus c _, rfl, rfl⟩, rfl, rfl, rfl, rfl, rfl⟩
  case inr =>
    have hdigest := commandDigest_of_decode hdec ((s.setPort rest).setCmd v) hle
    generalize commandDigest i ((s.setPort rest).setCmd v) hle = d at hsub hdigest
    refine ⟨_, hsub, .inl ⟨setDone_true_of_unfaulted hst, rfl, i.rounds.toNat, hle, ?_⟩, rfl,
      State.finish_stateIn hwf d, State.finish_keyIn hwf d, rfl, rfl⟩
    rw [State.finish_digest (s := (s.setPort rest).setCmd v) hwf]
    exact hdigest

end Sys2Proof.Machine
end

section
/-! The sequencer as a machine of its own (R4, R14): what each micro-step answers, the run from an accepted command to
its end as one path through the positions of R14, and what has not changed before TRUNC (R172). -/

namespace Sys2Proof.Machine

/-! ### The micro-steps -/

/-- A sequencer position: the phase and the round (R14). -/
abbrev Position := Phase × Option (BitVec 3)

/-- The sequencer position of a state. -/
def State.position (s : State) : Position := (s.phase, s.rnd)

/-- Where the sequencer goes after SAVE and after every MIX, when `r` of `n` rounds are done (R14). -/
def roundPosition (r n : Nat) : Position := if r < n then (.aes2, some (BitVec.ofNat 3 r)) else (.ffwd, none)

/-- `s` with the sequencer at a position and values in both lane registers. -/
def State.working (s : State) (p : Position) (S T : Lanes) : State := ((s.setS S).setT T).setPc p.1 p.2

@[simp] theorem State.working_phase (s : State) (p : Position) (S T : Lanes) : (s.working p S T).phase = p.1 := rfl

theorem nextRound_eq {s : State} {n : BitVec 3} (h : s.nl = some n) (r : Nat) :
    nextRound r s = .next (s.setPc (roundPosition r n.toNat).1 (roundPosition r n.toNat).2) := by
  rw [nextRound_of_some h, roundPosition]
  split <;> rfl

@[simp] theorem State.start_stateIn (s : State) (keyed : Bool) (n : BitVec 4) : (s.start keyed n).stateIn = s.stateIn :=
  rfl

@[simp] theorem State.finish_start (s : State) (keyed : Bool) (n : BitVec 4) (d : Digest) :
    (s.start keyed n).finish d = s.finish d := by
  rw [State.start, State.finish_setPc, State.finish_accept]

@[simp] theorem State.finish_position (s : State) (d : Digest) : (s.finish d).position = (.idle, none) := rfl

theorem microStep_load {s : State} {keyed : Bool} (hp : s.phase = .load) (ho : s.opk = some keyed) :
    microStep s = .next ((s.setS (loadLanes s.stateIn)).setPc (if keyed then .keyxor else .save) none) := by
  rw [microStep, hp]
  change andThen afterLoad (load s) = _
  rw [load, andThen_next, afterLoad, withOpk_some (s := s.setS _) ho]

theorem microStep_keyxor {s : State} {S : Lanes} (hp : s.phase = .keyxor) (hS : s.laneS = some S) :
    microStep s = .next ((s.setS (xorLanes S (loadLanes s.keyIn))).setPc .save none) := by
  rw [microStep, hp]
  change andThen _ (keyXor s) = _
  rw [keyXor_of_some hS, andThen_next]

theorem microStep_save {s : State} {S : Lanes} {n : BitVec 3} (hp : s.phase = .save) (hS : s.laneS = some S)
    (hn : s.nl = some n) : microStep s = .next (s.working (roundPosition 0 n.toNat) S S) := by
  rw [microStep, hp]
  change andThen _ (save s) = _
  rw [save_of_some hS, andThen_next, nextRound_eq (s := s.setT S) hn]
  refine congrArg _ ?_
  ext1 <;> simp [State.working, hS]

theorem microStep_aes2 (s : State) (S T : Lanes) {r : Nat} (hr : r < 5) :
    microStep (s.working (.aes2, some (BitVec.ofNat 3 r)) S T) =
      .next (s.working (.mix, some (BitVec.ofNat 3 r)) (aes2f S ⟨r, hr⟩) T) := by
  have hr3 : (BitVec.ofNat 3 r).toNat = r := by
    rw [BitVec.toNat_ofNat]
    omega
  rw [microStep, State.working_phase]
  change andThen _ (aes2 _) = _
  rw [aes2_of_some (S := S) (r := BitVec.ofNat 3 r) rfl rfl (by omega), andThen_next]
  simp only [hr3]
  rfl

theorem microStep_mix {s : State} {n : BitVec 3} (hn : s.nl = some n) (S T : Lanes) {r : Nat} (hr : r < 5) :
    microStep (s.working (.mix, some (BitVec.ofNat 3 r)) S T) =
      .next (s.working (roundPosition (r + 1) n.toNat) (mixLanes S) T) := by
  have hr3 : (BitVec.ofNat 3 r).toNat = r := by
    rw [BitVec.toNat_ofNat]
    omega
  rw [microStep, State.working_phase]
  change andThen _ (mix _) = _
  rw [mix_of_some (S := S) rfl, andThen_next, withRnd_some (v := BitVec.ofNat 3 r) rfl, hr3,
    nextRound_eq (s := (s.working _ S T).setS _) hn]
  rfl

theorem microStep_ffwd (s : State) (S T : Lanes) :
    microStep (s.working (.ffwd, none) S T) = .next (s.working (.trunc, none) (xorLanes S T) T) := by
  rw [microStep, State.working_phase]
  change andThen _ (ffwd _) = _
  rw [ffwd_of_some (S := S) (T := T) rfl rfl, andThen_next]
  rfl

theorem microStep_trunc (s : State) (S T : Lanes) :
    microStep (s.working (.trunc, none) S T) = .next (s.finish (truncate S)) := by
  rw [microStep, State.working_phase]
  change andThen _ (trunc _) = _
  rw [trunc_of_some (S := S) rfl, andThen_next, State.endOperation_storeDigest]
  rfl

/-! ### Paths of the sequencer -/

/-- The micro-steps from one state to another, one for each position of the list in order. -/
inductive Path : List Position → State → State → Prop where
  | nil (s : State) : Path [] s s
  | cons {ps : List Position} {s t u : State} (step : microStep s = .next t) (rest : Path ps t u) :
      Path (s.position :: ps) s u

theorem Path.single {s t : State} {p : Position} (hp : s.position = p) (h : microStep s = .next t) :
    Path [p] s t :=
  hp ▸ Path.cons h (Path.nil t)

theorem Path.append {ps qs : List Position} {s t u : State} (h : Path ps s t) (h' : Path qs t u) :
    Path (ps ++ qs) s u := by
  induction h with
  | nil => exact h'
  | cons step _ ih => exact Path.cons step (ih h')

/-- A path is a run of as many micro-steps as it has positions. -/
theorem Path.microRun {ps : List Position} {s t : State} (h : Path ps s t) : microRun ps.length s = .next t := by
  induction h with
  | nil => rfl
  | cons step _ ih =>
    rw [List.length_cons, Machine.microRun, step, andThen_next]
    exact ih

/-- After `j` micro-steps a path stands at its `j`-th position, or at its end. -/
theorem Path.microRun_position {ps : List Position} {s u : State} (h : Path ps s u) {j : Nat}
    (hj : j < (ps ++ [u.position]).length) :
    ∃ t, Machine.microRun j s = .next t ∧ t.position = (ps ++ [u.position])[j] := by
  induction h generalizing j with
  | nil s =>
    obtain rfl : j = 0 := by simpa using hj
    exact ⟨s, rfl, rfl⟩
  | @cons ps s t u step _ ih =>
    cases j with
    | zero => exact ⟨s, rfl, rfl⟩
    | succ j =>
      obtain ⟨t', hrun, hpos⟩ := ih (j := j) (by simpa using hj)
      refine ⟨t', ?_, hpos⟩
      rw [Machine.microRun, step, andThen_next]
      exact hrun

/-! ### The path of an operation -/

/-- The positions of `m` rounds. -/
def roundPositions (m : Nat) : List Position :=
  (List.range m).flatMap fun r => [(.aes2, some (BitVec.ofNat 3 r)), (.mix, some (BitVec.ofNat 3 r))]

theorem roundPositions_succ (m : Nat) :
    roundPositions (m + 1) =
      roundPositions m ++ [(.aes2, some (BitVec.ofNat 3 m)), (.mix, some (BitVec.ofNat 3 m))] := by
  simp [roundPositions, List.range_succ]

theorem roundPositions_length (m : Nat) : (roundPositions m).length = 2 * m := by
  induction m with
  | zero => rfl
  | succ m ih => rw [roundPositions_succ, List.length_append, ih]; rfl

/-- The first `m` of `n` rounds compute `P_m` of R123 in the working lanes. -/
theorem path_rounds {s : State} {n : BitVec 3} (hn : s.nl = some n) (h5 : n.toNat ≤ Config.maxRounds) (P T : Lanes)
    (m : Nat) (hm : m ≤ n.toNat) :
    Path (roundPositions m) (s.working (roundPosition 0 n.toNat) P T)
      (s.working (roundPosition m n.toNat) (roundsf m (hm.trans h5) P) T) := by
  induction m with
  | zero => exact Path.nil _
  | succ m ih =>
    have hm5 : m < 5 := hm.trans h5
    have hpos : roundPosition m n.toNat = (.aes2, some (BitVec.ofNat 3 m)) := if_pos hm
    rw [roundPositions_succ]
    refine (ih (Nat.le_of_succ_le hm)).append ?_
    rw [hpos]
    exact (Path.single rfl (microStep_aes2 s _ T hm5)).append (Path.single rfl (microStep_mix hn _ T hm5))

/-- The positions from SAVE to TRUNC. -/
def saveToTruncPositions (n : Nat) : List Position :=
  [(.save, none)] ++ roundPositions n ++ [(.ffwd, none), (.trunc, none)]

/-- From SAVE on, both operations take the same path. -/
theorem path_saveToTrunc {s : State} {P : Lanes} {n : BitVec 3} (hp : s.position = (.save, none))
    (hS : s.laneS = some P) (hn : s.nl = some n) (h5 : n.toNat ≤ Config.maxRounds) :
    Path (saveToTruncPositions n.toNat) s (s.finish (truncate (xorLanes (roundsf n.toNat h5 P) P))) := by
  have hphase : s.phase = .save := congrArg Prod.fst hp
  have hend : roundPosition n.toNat n.toNat = (.ffwd, none) := if_neg (Nat.lt_irrefl _)
  have hrounds := path_rounds hn h5 P P n.toNat le_rfl
  rw [hend] at hrounds
  refine ((Path.single hp (microStep_save hphase hS hn)).append hrounds).append ?_
  exact (Path.single rfl (microStep_ffwd s _ P)).append (Path.single rfl (microStep_trunc s _ P))

/-- The command whose operation the sequencer runs. -/
def sequencedCommand (keyed : Bool) (n : BitVec 4) : Instr := if keyed then .h512k n else .h512 n

/-- The positions of a whole operation, up to TRUNC. -/
def operationPositions (keyed : Bool) (n : Nat) : List Position :=
  (.load, none) :: (if keyed then [(.keyxor, none)] else []) ++ saveToTruncPositions n

theorem operationPositions_unkeyed (n : Nat) :
    operationPositions false n = [(.load, none)] ++ saveToTruncPositions n := rfl

theorem operationPositions_keyed (n : Nat) :
    operationPositions true n = [(.load, none)] ++ ([(.keyxor, none)] ++ saveToTruncPositions n) := rfl

theorem positions_eq (keyed : Bool) (n : Nat) :
    positions keyed n = operationPositions keyed n ++ [(.idle, none)] := by
  simp [positions, operationPositions, saveToTruncPositions, roundPositions]

theorem operationPositions_length (keyed : Bool) (n : Nat) :
    (operationPositions keyed n).length = microCount keyed n := by
  cases keyed <;> simp [operationPositions, saveToTruncPositions, roundPositions_length, microCount] <;> omega

/-- The run of the sequencer from an accepted command ends in the state that the command answers. -/
theorem path_operation (keyed : Bool) {n : BitVec 4} (h : n.toNat ≤ Config.maxRounds) (s : State) :
    ∃ t, exec (sequencedCommand keyed n) s = .next t ∧ t.position = (.idle, none) ∧
      Path (operationPositions keyed n.toNat) (s.start keyed n) t := by
  have hcount : (n.setWidth 3).toNat = n.toNat := toNat_setWidth_three h
  have hload := Path.single (p := (.load, none)) rfl (microStep_load (s := s.start keyed n) rfl rfl)
  rw [State.start_stateIn] at hload
  have saveToTrunc {u : State} {P : Lanes} (hp : u.position = (.save, none)) (hS : u.laneS = some P)
      (hn : u.nl = some (n.setWidth 3)) :
      Path (saveToTruncPositions n.toNat) u (u.finish (truncate (xorLanes (roundsf n.toNat h P) P))) := by
    have hpath := path_saveToTrunc hp hS hn (hcount ▸ h)
    simpa only [hcount] using hpath
  cases keyed with
  | false =>
    refine ⟨_, exec_h512_of_le h s, State.finish_position _ _, ?_⟩
    have hpath := hload.append (saveToTrunc (P := loadLanes s.stateIn) rfl rfl rfl)
    rw [State.finish_setPc, State.finish_setS, State.finish_start] at hpath
    rw [operationPositions_unkeyed, haraka512]
    exact hpath
  | true =>
    refine ⟨_, exec_h512k_of_le h s, State.finish_position _ _, ?_⟩
    have hkeyxor := Path.single (p := (.keyxor, none)) rfl
      (microStep_keyxor (s := ((s.start true n).setS (loadLanes s.stateIn)).setPc .keyxor none) rfl rfl)
    have hpath := hload.append (hkeyxor.append
      (saveToTrunc (P := xorLanes (loadLanes s.stateIn) (loadLanes s.keyIn)) rfl rfl rfl))
    rw [State.finish_setPc, State.finish_setS, State.finish_setPc, State.finish_setS, State.finish_start] at hpath
    rw [operationPositions_keyed, haraka512K, haraka512, loadLanes_xorBlock]
    exact hpath

/-- Settles O33: the list of R14 is that of the operation's path, and then its end in `IDLE`. -/
theorem sequencerTakesThePositionsInOrder : Obligations.SequencerTakesThePositionsInOrder := by
  intro keyed n s h j hj
  obtain ⟨t, -, hend, hpath⟩ := path_operation keyed h s
  have hpos : positions keyed n.toNat = operationPositions keyed n.toNat ++ [t.position] := by
    rw [hend, positions_eq]
  simp only [hpos] at hj ⊢
  exact hpath.microRun_position hj

/-- Settles O34: the path of an operation has `microCount` positions, and its end is the command's outcome. -/
theorem sequencerRunIsTheCommand : Obligations.SequencerRunIsTheCommand := by
  intro n s h
  have agree (keyed : Bool) :
      microRun (microCount keyed n.toNat) (s.start keyed n) = exec (sequencedCommand keyed n) s := by
    obtain ⟨t, hexec, -, hpath⟩ := path_operation keyed h s
    rw [hexec, ← operationPositions_length]
    exact hpath.microRun
  exact ⟨agree false, agree true⟩

/-! ### Before TRUNC -/

/-- What the host can see or has asked for: the stored bytes, `STATUS` and the two ends of the port are the same. -/
structure State.SameHostSide (s t : State) : Prop where
  mem : t.mem = s.mem
  status : t.status = s.status
  port : t.port = s.port
  replies : t.replies = s.replies

theorem State.SameHostSide.trans {s t u : State} (h : s.SameHostSide t) (h' : t.SameHostSide u) : s.SameHostSide u :=
  ⟨h'.mem.trans h.mem, h'.status.trans h.status, h'.port.trans h.port, h'.replies.trans h.replies⟩

theorem State.sameHostSide_refl (s : State) : s.SameHostSide s := ⟨rfl, rfl, rfl, rfl⟩

theorem State.sameHostSide_setS (s : State) (S : Lanes) : s.SameHostSide (s.setS S) := ⟨rfl, rfl, rfl, rfl⟩

theorem State.sameHostSide_setT (s : State) (T : Lanes) : s.SameHostSide (s.setT T) := ⟨rfl, rfl, rfl, rfl⟩

theorem State.sameHostSide_setPc (s : State) (p : Phase) (r : Option (BitVec 3)) : s.SameHostSide (s.setPc p r) :=
  ⟨rfl, rfl, rfl, rfl⟩

theorem nextRound_sameHostSide {r : Nat} {s t : State} (h : nextRound r s = .next t) : s.SameHostSide t := by
  obtain ⟨n, hn, -⟩ := withNl_eq_next h
  obtain rfl := Host.Outcome.next.inj ((nextRound_eq hn r).symm.trans h)
  exact s.sameHostSide_setPc _ _

/-- Every micro-step but TRUNC writes working registers and the sequencer position only. -/
theorem microStep_sameHostSide {s t : State} (hp : s.phase ≠ .trunc) (h : microStep s = .next t) :
    s.SameHostSide t := by
  rw [microStep] at h
  cases hphase : s.phase with
  | idle | faulted =>
    rw [hphase] at h
    obtain rfl := Host.Outcome.next.inj h
    exact s.sameHostSide_refl
  | load =>
    rw [hphase] at h
    obtain ⟨u, hu, h⟩ := andThen_eq_next.mp h
    obtain rfl := load_eq_next hu
    obtain ⟨keyed, -, h⟩ := withOpk_eq_next h
    obtain rfl := Host.Outcome.next.inj h
    exact (s.sameHostSide_setS _).trans (State.sameHostSide_setPc _ _ _)
  | keyxor =>
    rw [hphase] at h
    obtain ⟨u, hu, h⟩ := andThen_eq_next.mp h
    obtain ⟨S, -, rfl⟩ := keyXor_eq_next hu
    obtain rfl := Host.Outcome.next.inj h
    exact (s.sameHostSide_setS _).trans (State.sameHostSide_setPc _ _ _)
  | save =>
    rw [hphase] at h
    obtain ⟨u, hu, h⟩ := andThen_eq_next.mp h
    obtain ⟨S, -, rfl⟩ := save_eq_next hu
    exact (s.sameHostSide_setT S).trans (nextRound_sameHostSide h)
  | aes2 =>
    rw [hphase] at h
    obtain ⟨u, hu, h⟩ := andThen_eq_next.mp h
    obtain ⟨r, S, S', -, -, -, rfl⟩ := aes2_eq_next hu
    obtain rfl := Host.Outcome.next.inj h
    exact (s.sameHostSide_setS S').trans (State.sameHostSide_setPc _ _ _)
  | mix =>
    rw [hphase] at h
    obtain ⟨u, hu, h⟩ := andThen_eq_next.mp h
    obtain ⟨S, -, rfl⟩ := mix_eq_next hu
    obtain ⟨r, -, h⟩ := withRnd_eq_next h
    exact (s.sameHostSide_setS _).trans (nextRound_sameHostSide h)
  | ffwd =>
    rw [hphase] at h
    obtain ⟨u, hu, h⟩ := andThen_eq_next.mp h
    obtain ⟨S, T, -, -, rfl⟩ := ffwd_eq_next hu
    obtain rfl := Host.Outcome.next.inj h
    exact (s.sameHostSide_setS _).trans (State.sameHostSide_setPc _ _ _)
  | trunc => exact absurd hphase hp

/-- As long as a path has not passed TRUNC, nothing on the host's side has changed. -/
theorem Path.sameHostSide {ps : List Position} {s t u : State} (h : Path ps s u) {j : Nat}
    (hno : ∀ p ∈ ps.take j, p.1 ≠ .trunc) (hj : j ≤ ps.length) (hrun : Machine.microRun j s = .next t) :
    s.SameHostSide t := by
  induction h generalizing j with
  | nil s =>
    obtain rfl : j = 0 := by simpa using hj
    obtain rfl := Host.Outcome.next.inj hrun
    exact s.sameHostSide_refl
  | @cons ps s v u step _ ih =>
    cases j with
    | zero =>
      obtain rfl := Host.Outcome.next.inj hrun
      exact s.sameHostSide_refl
    | succ j =>
      rw [List.take_succ_cons, List.forall_mem_cons] at hno
      rw [Machine.microRun, step, andThen_next] at hrun
      exact (microStep_sameHostSide hno.1 step).trans (ih hno.2 (by simpa using hj) hrun)

theorem roundPositions_ne_trunc (m : Nat) : ∀ p ∈ roundPositions m, p.1 ≠ .trunc := by
  intro p hp
  obtain ⟨r, -, hr⟩ := List.mem_flatMap.mp hp
  rw [List.mem_pair] at hr
  obtain rfl | rfl := hr <;> simp

/-- The positions of an operation before TRUNC. -/
def positionsBeforeTrunc (keyed : Bool) (n : Nat) : List Position :=
  (.load, none) :: (if keyed then [(.keyxor, none)] else []) ++ ([(.save, none)] ++ roundPositions n ++ [(.ffwd, none)])

theorem operationPositions_eq (keyed : Bool) (n : Nat) :
    operationPositions keyed n = positionsBeforeTrunc keyed n ++ [(.trunc, none)] := by
  simp [operationPositions, saveToTruncPositions, positionsBeforeTrunc]

theorem positionsBeforeTrunc_ne_trunc (keyed : Bool) (n : Nat) : ∀ p ∈ positionsBeforeTrunc keyed n, p.1 ≠ .trunc := by
  have hrounds := roundPositions_ne_trunc n
  cases keyed <;> simpa [positionsBeforeTrunc, or_imp, forall_and] using hrounds

/-- TRUNC is the last position of an operation, and no other. -/
theorem operationPositions_take_ne_trunc {keyed : Bool} {n j : Nat} (hj : j < microCount keyed n) :
    ∀ p ∈ (operationPositions keyed n).take j, p.1 ≠ .trunc := by
  have hlen : j ≤ (positionsBeforeTrunc keyed n).length := by
    have hcount := operationPositions_length keyed n
    rw [operationPositions_eq, List.length_append, List.length_singleton] at hcount
    omega
  rw [operationPositions_eq, List.take_append_of_le_length hlen]
  exact fun p hp => positionsBeforeTrunc_ne_trunc keyed n p (List.mem_of_mem_take hp)

theorem State.assertReset_eq (s : State) :
    s.assertReset = { State.reset with port := s.port, replies := s.replies } := rfl

/-- Settles O35: acceptance clears `DONE`, and until TRUNC no micro-step touches what the host sees. -/
theorem resetDuringAnOperationAbandonsIt : Obligations.ResetDuringAnOperationAbandonsIt := by
  intro keyed n s t j h hj hrun
  obtain ⟨u, -, -, hpath⟩ := path_operation keyed h s
  have hlen : j ≤ (operationPositions keyed n.toNat).length := by
    rw [operationPositions_length]
    exact hj.le
  obtain ⟨hmem, hstatus, hport, hreplies⟩ :=
    hpath.sameHostSide (operationPositions_take_ne_trunc hj) hlen hrun
  refine ⟨hmem, ?_, ?_⟩
  · rw [hstatus]
    exact statusDone_setDone false s.status
  · rw [State.assertReset_eq, hport, hreplies]
    rfl

end Sys2Proof.Machine
end

section
/-! MIX as a map of byte positions (R103): the byte map from the word table, its inverse, and the diffusion over the
lanes (R104). -/

namespace Sys2Proof.Machine

/-! ### Four lanes as 64 bytes -/

theorem lanes_ext_stateByte {S S' : Lanes} (h : ∀ j, stateByte S j = stateByte S' j) : S = S' := by
  ext i hi k hk : 2
  have hdiv : (16 * i + k) / 16 = i := by omega
  have hmod : (16 * i + k) % 16 = k := by omega
  simpa only [stateByte, hdiv, hmod] using h ⟨16 * i + k, by omega⟩

/-- The four lanes with the given 64 state bytes. -/
def ofStateBytes (f : Fin 64 → Byte) : Lanes := loadLanes (Vector.ofFn f)

@[simp] theorem stateByte_ofStateBytes (f : Fin 64 → Byte) (j : Fin 64) : stateByte (ofStateBytes f) j = f j := by
  have hpos : 16 * (j.val / 16) + j.val % 16 = j.val := Nat.div_add_mod _ _
  simp only [stateByte, ofStateBytes, loadLanes_getElem, hpos, Vector.getElem_ofFn]

/-- State byte `j` is byte `j mod 4` of word `j mod 16 div 4` of lane `j div 16` (R5). -/
theorem stateByte_eq_laneWord (S : Lanes) (j : Fin 64) :
    stateByte S j = (laneWord S[j.val / 16] ⟨j.val % 16 / 4, by omega⟩)[j.val % 4] := by
  have hpos : 4 * (j.val % 16 / 4) + j.val % 4 = j.val % 16 := by omega
  simp only [laneWord_getElem, hpos, stateByte]

/-! ### The byte map -/

/-- The old position of the byte that MIX moves to position `j`, from the word table of R102. -/
def mixByteSource (j : Fin 64) : Fin 64 :=
  let lane : Fin 4 := ⟨j.val / 16, by omega⟩
  let word : Fin 4 := ⟨j.val % 16 / 4, by omega⟩
  ⟨16 * (mixSourceLane lane word).val + 4 * (mixSourceWord lane).val + j.val % 4, by omega⟩

theorem stateByte_mixLanes (S : Lanes) (j : Fin 64) : stateByte (mixLanes S) j = stateByte S (mixByteSource j) := by
  have hword := laneWord_mixLanes S ⟨j.val / 16, by omega⟩ ⟨j.val % 16 / 4, by omega⟩
  have hlane : (mixByteSource j).val / 16 =
      (mixSourceLane ⟨j.val / 16, by omega⟩ ⟨j.val % 16 / 4, by omega⟩).val := by
    simp only [mixByteSource]
    omega
  have hbyte : (mixByteSource j).val % 16 = 4 * (mixSourceWord ⟨j.val / 16, by omega⟩).val + j.val % 4 := by
    simp only [mixByteSource]
    omega
  rw [stateByte_eq_laneWord, stateByte]
  simp only [hlane, hbyte]
  exact (congrArg (·[j.val % 4]) hword).trans (laneWord_getElem _ _ _ _)

/-- The new position of the byte that MIX takes from position `k`. -/
def mixByteTarget (k : Fin 64) : Fin 64 :=
  #v[0x14, 0x15, 0x16, 0x17, 0x24, 0x25, 0x26, 0x27, 0x30, 0x31, 0x32, 0x33, 0x00, 0x01, 0x02, 0x03,
    0x1c, 0x1d, 0x1e, 0x1f, 0x2c, 0x2d, 0x2e, 0x2f, 0x38, 0x39, 0x3a, 0x3b, 0x08, 0x09, 0x0a, 0x0b,
    0x10, 0x11, 0x12, 0x13, 0x20, 0x21, 0x22, 0x23, 0x34, 0x35, 0x36, 0x37, 0x04, 0x05, 0x06, 0x07,
    0x18, 0x19, 0x1a, 0x1b, 0x28, 0x29, 0x2a, 0x2b, 0x3c, 0x3d, 0x3e, 0x3f, 0x0c, 0x0d, 0x0e, 0x0f][k]

theorem mixByteSource_mixByteTarget : ∀ k, mixByteSource (mixByteTarget k) = k := by decide

theorem mixByteTarget_mixByteSource : ∀ j, mixByteTarget (mixByteSource j) = j := by decide

theorem mixLanes_injective {S S' : Lanes} (h : mixLanes S = mixLanes S') : S = S' := by
  refine lanes_ext_stateByte fun k => ?_
  rw [← mixByteSource_mixByteTarget k, ← stateByte_mixLanes, ← stateByte_mixLanes, h]

/-- The lanes that MIX takes to `S`. -/
def unmixLanes (S : Lanes) : Lanes := ofStateBytes fun k => stateByte S (mixByteTarget k)

theorem mixLanes_unmixLanes (S : Lanes) : mixLanes (unmixLanes S) = S := by
  refine lanes_ext_stateByte fun j => ?_
  rw [stateByte_mixLanes, unmixLanes, stateByte_ofStateBytes, mixByteTarget_mixByteSource]

/-- Four lanes whose state byte `j` is `j`. -/
def countingLanes : Lanes := ofStateBytes fun j => BitVec.ofNat 8 j.val

/-- MIX twice takes byte `0x3c` to position 0. -/
theorem mixLanes_mixLanes_ne : mixLanes (mixLanes countingLanes) ≠ countingLanes := by
  intro h
  have hbyte := congrArg (stateByte · 0) h
  simp only [stateByte_mixLanes, countingLanes, stateByte_ofStateBytes] at hbyte
  exact absurd hbyte (by decide)

/-- Settles O45: the table of R103 is `mixByteSource`, which `mixByteTarget` inverts. -/
theorem mixIsTheByteMapAndABijection : Obligations.MixIsTheByteMapAndABijection := by
  refine ⟨fun S j => ?table, fun S S' => mixLanes_injective, fun S => ⟨unmixLanes S, mixLanes_unmixLanes S⟩,
    ⟨countingLanes, mixLanes_mixLanes_ne⟩⟩
  case table =>
    rw [stateByte_mixLanes]
    congr 1
    revert j
    decide

/-! ### Diffusion -/

/-- Every row of the word table names each of the four old lanes (R104). -/
theorem exists_mixSourceLane : ∀ out src : Fin 4, ∃ w, mixSourceLane out w = src := by decide

/-- Settles O46: the word of `out` whose source lane is `src` is a word of that lane in every state. -/
theorem mixTakesOneWordFromEachLane : Obligations.MixTakesOneWordFromEachLane := by
  intro out src
  obtain ⟨w, rfl⟩ := exists_mixSourceLane out src
  exact ⟨w, mixSourceWord out, fun S => laneWord_mixLanes S out w⟩

end Sys2Proof.Machine
end

section
/-! The pseudo-instructions of a host script (R58), as runs: a block of writes, a block of reads, and a command between
them. -/

namespace Sys2Proof.Machine

/-! ### A block of writes -/

theorem writesFrom_length (a : Nat) (vs : List Byte) : (writesFrom a vs).length = vs.length := by
  induction vs generalizing a with
  | nil => rfl
  | cons v vs ih => rw [writesFrom, List.length_cons, List.length_cons, ih]

/-- Writes at rising addresses of the input buffers store their bytes, one a step, and nothing else but the port
changes. -/
theorem stepN_writesFrom (vs : List Byte) {s : State} {a : Nat} {rest : List HostAccess}
    (hport : s.port = writesFrom a vs ++ rest) (ha : a + vs.length ≤ 0x80) :
    stepN vs.length s = .next { s with port := rest, mem := s.mem.writeList a vs } := by
  induction vs generalizing s a with
  | nil =>
    obtain rfl : s.port = rest := hport
    rfl
  | cons v vs ih =>
    rw [List.length_cons] at ha ⊢
    have haddr : (BitVec.ofNat 8 a).toNat = a := by
      rw [BitVec.toNat_ofNat]
      omega
    have hstep := (step_of_write hport).trans (memWrite_input _ v (by omega))
    rw [haddr] at hstep
    rw [stepN_of_step hstep, ih (a := a + 1) rfl (by omega)]
    rfl

/-- What the bytes of a block leave to read, wherever they are stored below `0xA0`. -/
theorem Memory.read_writeList_block {m : Memory} (hwf : m.wf = true) (h : Block) {b : Nat} (hb : b + 64 ≤ 0xA0)
    (a : Nat) : (m.writeList b h.toList).read a = if ha : b ≤ a ∧ a < b + 64 then h[a - b] else m.read a := by
  rw [Memory.read_writeList hwf _ _ (by rw [Vector.length_toList]; exact hb)]
  by_cases hlo : b ≤ a
  · by_cases hhi : a < b + 64
    · rw [if_pos hlo, dif_pos ⟨hlo, hhi⟩, List.getElem?_eq_getElem (by rw [Vector.length_toList]; omega),
        Vector.getElem_toList]
      rfl
    · rw [if_pos hlo, dif_neg (by omega), List.getElem?_eq_none (by rw [Vector.length_toList]; omega)]
      rfl
  · rw [if_neg hlo, dif_neg (by omega)]

/-- The 64 writes of a block below `0x80` fill their buffer with it. -/
theorem stepN_writeBlock {s : State} (hwf : s.mem.wf = true) (h : Block) {b : Nat} (hb : b + 64 ≤ 0x80)
    {rest : List HostAccess} (hport : s.port = writesFrom b h.toList ++ rest) :
    ∃ m : Memory, stepN 64 s = .next { s with port := rest, mem := m } ∧ m.wf = true ∧
      ∀ a : Nat, m.read a = if ha : b ≤ a ∧ a < b + 64 then h[a - b] else s.mem.read a := by
  have hlen : h.toList.length = 64 := Vector.length_toList
  have hrun := stepN_writesFrom h.toList hport (by omega)
  rw [hlen] at hrun
  exact ⟨_, hrun, Memory.wf_writeList hwf _ _ (by omega), Memory.read_writeList_block hwf h (by omega)⟩

/-- Settles O52: both statements are blocks of 64 writes, at `0x00` and at `0x40`. -/
theorem loadStatementsFillTheirBuffer : Obligations.LoadStatementsFillTheirBuffer := by
  intro s h rest hwf
  refine ⟨fun hport => ?ldstate, fun hport => stepN_writeBlock hwf h (b := 0x40) (by omega) hport⟩
  case ldstate =>
    obtain ⟨m, hrun, hmwf, hread⟩ := stepN_writeBlock hwf h (b := 0x00) (by omega) hport
    refine ⟨m, hrun, hmwf, fun a => ?_⟩
    simpa using hread a

/-! ### The buffers after a block of writes -/

theorem State.stateIn_eq_of_read {t : State} {X : Block} (h : ∀ j (hj : j < 64), t.mem.read j = X[j]) :
    t.stateIn = X := by
  ext j hj : 1
  rw [State.stateIn_getElem, h j hj]

theorem State.keyIn_eq_of_read {t : State} {K : Block} (h : ∀ j (hj : j < 64), t.mem.read (0x40 + j) = K[j]) :
    t.keyIn = K := by
  ext j hj : 1
  rw [State.keyIn_getElem, h j hj]

/-- After `LDSTATE h` the state buffer is `h` and the key buffer stands. -/
theorem stepN_ldstate {s : State} (hwf : s.mem.wf = true) {h : Block} {rest : List HostAccess}
    (hport : s.port = ldstateAccesses h ++ rest) :
    ∃ t, stepN 64 s = .next t ∧ t.port = rest ∧ t.replies = s.replies ∧ t.status = s.status ∧ t.stateIn = h ∧
      t.keyIn = s.keyIn := by
  obtain ⟨m, hrun, -, hread⟩ := stepN_writeBlock hwf h (b := 0x00) (by omega) hport
  refine ⟨_, hrun, rfl, rfl, rfl, State.stateIn_eq_of_read fun j hj => ?_, State.keyIn_eq_of_read fun j hj => ?_⟩
  · rw [hread, dif_pos ⟨Nat.zero_le _, by omega⟩]
    rfl
  · rw [hread, dif_neg (by omega), State.keyIn_getElem s j hj]

/-- After `LDKEY k` the key buffer is `k` and the state buffer stands. -/
theorem stepN_ldkey {s : State} (hwf : s.mem.wf = true) {k : Block} {rest : List HostAccess}
    (hport : s.port = ldkeyAccesses k ++ rest) :
    ∃ t, stepN 64 s = .next t ∧ t.port = rest ∧ t.replies = s.replies ∧ t.status = s.status ∧
      t.stateIn = s.stateIn ∧ t.keyIn = k := by
  obtain ⟨m, hrun, -, hread⟩ := stepN_writeBlock hwf k (b := 0x40) (by omega) hport
  refine ⟨_, hrun, rfl, rfl, rfl, State.stateIn_eq_of_read fun j hj => ?_, State.keyIn_eq_of_read fun j hj => ?_⟩
  · rw [hread, dif_neg (by omega), State.stateIn_getElem s j hj]
  · rw [hread, dif_pos ⟨by omega, by omega⟩]
    simp only [Nat.add_sub_cancel_left]

/-! ### A block of reads -/

theorem readsFrom_length (a n : Nat) : (readsFrom a n).length = n := by
  induction n generalizing a with
  | zero => rfl
  | succ n ih => rw [readsFrom, List.length_cons, ih]

/-- Reads at rising buffer addresses return their bytes in order, and nothing else but the port changes. -/
theorem stepN_readsFrom (n : Nat) {s : State} {a : Nat} {rest : List HostAccess}
    (hport : s.port = readsFrom a n ++ rest) (ha : a + n ≤ 0xA0) :
    stepN n s = .next { s with port := rest, replies := s.replies ++ (List.range' a n).map s.mem.read } := by
  induction n generalizing s a with
  | zero =>
    obtain rfl : s.port = rest := hport
    simp [stepN]
  | succ n ih =>
    have haddr : (BitVec.ofNat 8 a).toNat = a := by
      rw [BitVec.toNat_ofNat]
      omega
    have hstep := step_of_read hport
    rw [memRead_buffer s (by omega), haddr] at hstep
    rw [stepN_of_step hstep, ih (a := a + 1) rfl (by omega), List.range'_succ, List.map_cons, ← List.singleton_append,
      ← List.append_assoc]
    rfl

theorem State.digest_toList (s : State) : s.digest.toList = (List.range' 0x80 32).map s.mem.read := by
  apply List.ext_getElem
  · simp
  · intro j hj _
    rw [Vector.length_toList] at hj
    simp [State.digest]

/-! ### A command, its status and its digest -/

/-- The good states are kept along every run. -/
theorem stepN_keeps_inv {k : Nat} {s t : State} (hinv : s.Inv) (hrun : stepN k s = .next t) : t.Inv := by
  induction k generalizing s with
  | zero =>
    obtain rfl := Host.Outcome.next.inj hrun
    exact hinv
  | succ k ih =>
    obtain ⟨u, hstep, hrest⟩ := andThen_eq_next.mp hrun
    exact ih (everyStepKeepsGoodStates s u hinv hstep) hrest

/-- An accepted command written to `CMD` in a good unfaulted state: one step to its digest and `STATUS` = `0x01`. -/
theorem step_command {s : State} {i : Instr} {rest : List HostAccess} (hinv : s.Inv)
    (hfault : statusFault s.status = false) (hle : i.rounds.toNat ≤ Config.maxRounds)
    (hport : s.port = .write 0xA0 (encode i) :: rest) :
    ∃ t, step s = .next t ∧ t.port = rest ∧ t.replies = s.replies ∧ t.status = 0x01 ∧
      t.digest = commandDigest i s hle ∧ t.stateIn = s.stateIn ∧ t.keyIn = s.keyIn := by
  have hst := hinv.status_of_unfaulted hfault
  obtain ⟨hwf, -⟩ := hinv
  have hdigest : commandDigest i ((s.setPort rest).setCmd (encode i)) hle = commandDigest i s hle := by
    cases i <;> rfl
  rw [step_of_write_cmd hport hfault, submit_of_ok (decode_encode i), exec_of_le hle, hdigest]
  generalize commandDigest i s hle = d
  exact ⟨_, rfl, rfl, rfl, setDone_true_of_unfaulted hst,
    State.finish_digest (s := (s.setPort rest).setCmd (encode i)) hwf d,
    State.finish_stateIn (s := (s.setPort rest).setCmd (encode i)) hwf d,
    State.finish_keyIn (s := (s.setPort rest).setCmd (encode i)) hwf d⟩

theorem step_rdstatus {s : State} {rest : List HostAccess} (hport : s.port = rdstatusAccesses ++ rest) :
    step s = .next ((s.setPort rest).reply s.status) :=
  step_of_read hport

theorem stepN_rddigest {s : State} {rest : List HostAccess} (hport : s.port = rddigestAccesses ++ rest) :
    stepN 32 s = .next { s with port := rest, replies := s.replies ++ s.digest.toList } := by
  rw [State.digest_toList]
  exact stepN_readsFrom 32 hport (by omega)

/-- The accesses that submit a command and read its outcome. -/
def commandAccesses (i : Instr) : List HostAccess :=
  .write 0xA0 (encode i) :: (rdstatusAccesses ++ rddigestAccesses)

theorem commandAccesses_length (i : Instr) : (commandAccesses i).length = 34 := rfl

/-- In a good unfaulted state an accepted command, followed by the reads of `STATUS` and `DIGEST`, returns `0x01` and
its digest. -/
theorem stepN_commandAccesses {s : State} {i : Instr} {rest : List HostAccess} (hinv : s.Inv)
    (hfault : statusFault s.status = false) (hle : i.rounds.toNat ≤ Config.maxRounds)
    (hport : s.port = commandAccesses i ++ rest) :
    ∃ t, stepN 34 s = .next t ∧ t.port = rest ∧ t.replies = s.replies ++ 0x01 :: (commandDigest i s hle).toList ∧
      t.stateIn = s.stateIn ∧ t.keyIn = s.keyIn := by
  obtain ⟨t, hstep, htport, htreplies, hstatus, hdigest, hstate, hkey⟩ :=
    step_command (rest := rdstatusAccesses ++ (rddigestAccesses ++ rest)) hinv hfault hle hport
  have hstatusRead := step_rdstatus htport
  rw [hstatus] at hstatusRead
  have hdigestRead := stepN_rddigest (s := (t.setPort (rddigestAccesses ++ rest)).reply 0x01) rfl
  have hsame : ((t.setPort (rddigestAccesses ++ rest)).reply 0x01).digest = commandDigest i s hle := hdigest
  rw [hsame, State.reply_replies, State.setPort_replies, htreplies, List.append_assoc] at hdigestRead
  exact ⟨_, (stepN_of_step hstep 33).trans ((stepN_of_step hstatusRead 32).trans hdigestRead), rfl, rfl, hstate, hkey⟩

/-! ### The two pseudo-instructions -/

theorem encode_h512_ofNat {n : Nat} (hn : n < 16) : encode (.h512 (BitVec.ofNat 4 n)) = 0x10 + BitVec.ofNat 8 n := by
  rw [encode_of_decode (decode_h512_ofNat hn), BitVec.ofNat_add]
  rfl

theorem encode_h512k_ofNat {n : Nat} (hn : n < 16) :
    encode (.h512k (BitVec.ofNat 4 n)) = 0x20 + BitVec.ofNat 8 n := by
  rw [encode_of_decode (decode_h512k_ofNat hn), BitVec.ofNat_add]
  rfl

theorem expand_haraka512 {n : Nat} (hn : n ≤ 5) (h : Block) :
    (Stmt.haraka512 n h).expand = some (ldstateAccesses h ++ commandAccesses (.h512 (BitVec.ofNat 4 n))) := by
  rw [Stmt.expand, command_of_le 0x10 hn, Option.map_some, commandAccesses, encode_h512_ofNat (by omega)]
  simp only [List.append_assoc, List.cons_append, List.nil_append]

theorem expand_haraka512k {n : Nat} (hn : n ≤ 5) (h k : Block) :
    (Stmt.haraka512k n h k).expand =
      some (ldstateAccesses h ++ (ldkeyAccesses k ++ commandAccesses (.h512k (BitVec.ofNat 4 n)))) := by
  rw [Stmt.expand, command_of_le 0x20 hn, Option.map_some, commandAccesses, encode_h512k_ofNat (by omega)]
  simp only [List.append_assoc, List.cons_append, List.nil_append]

theorem ldstateAccesses_length (h : Block) : (ldstateAccesses h).length = 64 :=
  (writesFrom_length _ _).trans Vector.length_toList

theorem ldkeyAccesses_length (k : Block) : (ldkeyAccesses k).length = 64 :=
  (writesFrom_length _ _).trans Vector.length_toList

theorem haraka512_congr {X Y : Block} {n m : Nat} (hX : X = Y) (hnm : n = m) (hn : n ≤ Config.maxRounds)
    (hm : m ≤ Config.maxRounds) : haraka512 X n hn = haraka512 Y m hm := by
  subst hX hnm
  rfl

theorem toNat_ofNat_four {n : Nat} (hn : n ≤ Config.maxRounds) : (BitVec.ofNat 4 n).toNat = n := by
  simp only [Config.maxRounds] at hn
  rw [BitVec.toNat_ofNat]
  omega

/-- Settles O53: `LDSTATE` gives the command its input, and the command and its reads return the digest. -/
theorem haraka512StatementReturnsTheDigest : Obligations.Haraka512StatementReturnsTheDigest := by
  intro s n hn h acc rest hinv hfault hacc hport
  obtain rfl := Option.some.inj ((expand_haraka512 hn h).symm.trans hacc)
  have hround := toNat_ofNat_four hn
  rw [List.append_assoc] at hport
  obtain ⟨u, hload, huport, hureplies, hustatus, hustate, hukey⟩ := stepN_ldstate hinv.mem_wf hport
  obtain ⟨t, hcommand, htport, htreplies, htstate, htkey⟩ :=
    stepN_commandAccesses (i := .h512 (BitVec.ofNat 4 n)) (stepN_keeps_inv hinv hload) (hustatus ▸ hfault)
      (hround.le.trans hn) huport
  have hrun : stepN (64 + 34) s = .next t := by rw [stepN_add, hload, andThen_next, hcommand]
  have hdigest : commandDigest (.h512 (BitVec.ofNat 4 n)) u (hround.le.trans hn) = haraka512 h n hn :=
    haraka512_congr hustate hround _ hn
  rw [hdigest, hureplies] at htreplies
  rw [List.length_append, ldstateAccesses_length, commandAccesses_length]
  exact ⟨t, hrun, htreplies, htport, htstate.trans hustate, htkey.trans hukey, stepN_keeps_inv hinv hrun⟩

/-- Settles O54: `LDSTATE` and `LDKEY` give the keyed command its two inputs. -/
theorem haraka512KStatementReturnsTheDigest : Obligations.Haraka512KStatementReturnsTheDigest := by
  intro s n hn h k acc rest hinv hfault hacc hport
  obtain rfl := Option.some.inj ((expand_haraka512k hn h k).symm.trans hacc)
  have hround := toNat_ofNat_four hn
  rw [List.append_assoc, List.append_assoc] at hport
  obtain ⟨u, hload, huport, hureplies, hustatus, hustate, -⟩ := stepN_ldstate hinv.mem_wf hport
  have huinv := stepN_keeps_inv hinv hload
  obtain ⟨w, hkeyload, hwport, hwreplies, hwstatus, hwstate, hwkey⟩ := stepN_ldkey huinv.mem_wf huport
  obtain ⟨t, hcommand, htport, htreplies, htstate, htkey⟩ :=
    stepN_commandAccesses (i := .h512k (BitVec.ofNat 4 n)) (stepN_keeps_inv huinv hkeyload)
      (by rw [hwstatus, hustatus, hfault]) (hround.le.trans hn) hwport
  have hrun : stepN (64 + (64 + 34)) s = .next t := by
    rw [stepN_add, hload, andThen_next, stepN_add, hkeyload, andThen_next, hcommand]
  have hdigest : commandDigest (.h512k (BitVec.ofNat 4 n)) w (hround.le.trans hn) = haraka512 (xorBlock h k) n hn :=
    haraka512_congr (congrArg₂ xorBlock (hwstate.trans hustate) hwkey) hround _ hn
  rw [hdigest, hwreplies, hureplies] at htreplies
  rw [List.length_append, List.length_append, ldstateAccesses_length, ldkeyAccesses_length, commandAccesses_length]
  exact ⟨t, hrun, htreplies, htport, htstate.trans (hwstate.trans hustate), htkey.trans hwkey,
    stepN_keeps_inv hinv hrun⟩

end Sys2Proof.Machine
end
